-- ==== Sys2Proof/Word.lean ====
section
/-! DEFINITION. The word types of the SnifferX frame parser: bytes of a frame, host words and hardware addresses.
Every value of the block is an unsigned integer (00_scope.md R11). -/

namespace Sys2Proof

/-- One byte of a frame or of the frame buffer (00_scope.md R10). -/
abbrev Byte := BitVec 8

/-- A 16-bit field: ether_type, a port, a length, an address of the frame buffer. -/
abbrev Half := BitVec 16

/-- A 32-bit host word (00_scope.md R8, host register width) or a 32-bit field. -/
abbrev Word := BitVec 32

/-- A 48-bit hardware address, first wire byte most significant (10_state.md R46). -/
abbrev Mac := BitVec 48

end Sys2Proof
end

