-- ==== Sys2Proof/Config.lean ====
section
/-! DEFINITION. The parameters of 00_scope.md R8: the ones the spec fixes are values, the ones it marks OPEN, and the
frame-buffer draws of 20_memory.md R71, are opaque constants that no proof can see into. FP_BASE and N_INSTANCES are arguments:
a field of State and the number of blocks of a System (Machine/System.lean). -/

namespace Sys2Proof

/-- Order of the bytes of a 32-bit host word on the bus lanes (00_scope.md R8, HOST_BUS_ENDIAN). DESIGN CHOICE (log 7): the spec
leaves the order OPEN, and of all orders of four bytes the model admits these two. -/
inductive Endian where
  | little
  | big
  deriving DecidableEq, Repr, Inhabited

/-- The open part of the host's hex dump (44_host_rendering.md R242): HEXDUMP_CASE, HEXDUMP_BYTE_FORMAT (the characters
before and after a pair of digits) and HEXDUMP_SEPARATOR. -/
structure HexFormat where
  upperCase : Bool
  before    : List Char
  after     : List Char
  separator : List Char
  deriving DecidableEq, Repr, Inhabited

namespace Config

/-- MAX_FRAME_LEN (R8). -/
abbrev maxFrameLen : Nat := 65535

/-- FB_SIZE (R8, 20_memory.md R70): the frame buffer's bytes stand at addresses 0 to fbSize - 1. -/
abbrev fbSize : Nat := 65535

/-- ETH_HDR_LEN (R8). -/
abbrev ethHdrLen : Nat := 14

/-- ETHERTYPE_IPV4 (R8). -/
abbrev etherTypeIpv4 : Half := 0x0800#16

/-- IPV4_MIN_LEN (R8). -/
abbrev ipv4MinLen : Nat := 20

/-- IPV4_MAX_HLEN (R8): 4 × 15. -/
abbrev ipv4MaxHlen : Nat := 60

/-- PROTO_ICMP (R8). -/
abbrev protoIcmp : Byte := 1#8

/-- PROTO_TCP (R8). -/
abbrev protoTcp : Byte := 6#8

/-- PROTO_UDP (R8). -/
abbrev protoUdp : Byte := 17#8

/-- ICMP_HDR_LEN (R8). -/
abbrev icmpHdrLen : Nat := 4

/-- TCP_PREFIX_LEN (R8). -/
abbrev tcpPrefixLen : Nat := 14

/-- TCP_MIN_DOFF (R8). -/
abbrev tcpMinDoff : Nat := 20

/-- UDP_HDR_LEN (R8). -/
abbrev udpHdrLen : Nat := 8

/-- The smallest header-length nibble that is accepted, 20 / 4 (41_ipv4.md R161, 42_transport.md R187). -/
abbrev minLenNibble : Nat := 5

/-- FREE VALUE (20_memory.md R71, 92_eei_decisions.md D22; log 1). What the frame-buffer byte at an address holds from a
power-up until the host writes it. The first argument is the bus window that identifies the instance (60_exceptions.md R269),
the second counts its power-ups, the third is the address. DESIGN CHOICE: the draws of different instances are apart. -/
opaque powerUpByte : BitVec 15 → Nat → Nat → Byte

/-- FP_BASE of the instance that has a 128 KiB window of the host bus: a multiple of 0x20000 (20_memory.md R85). Which window it
is, is OPEN (92_eei_decisions.md D4) and an argument: State.fpWindow (log 7). -/
def fpBase (window : BitVec 15) : Word := window ++ 0#17

/-- OPEN (D4; log 7): HOST_BUS_ENDIAN. No rule depends on it (20_memory.md R80). -/
opaque hostBusEndian : Endian

/-- OPEN (92_eei_decisions.md D28; log 9): HEXDUMP_CASE, HEXDUMP_BYTE_FORMAT and HEXDUMP_SEPARATOR of a system. -/
opaque hexdump : HexFormat

/-- OPEN (D28; log 9): the lines printed for an empty residual, given the caller's label. -/
opaque hexdumpEmpty : List Char → List (List Char)

/-- OPEN (D28; log 9): the lines printed when the label leaves less than one byte's width. -/
opaque hexdumpNarrow : List Char → List Byte → List (List Char)

end Config

end Sys2Proof
end

