-- ==== Sys2Proof/Syntax.lean ====
section
/-! DEFINITION. The operations of the block: the thirteen rows of spec/opcode_table.json, seven the engine dispatches to
(30_encoding.md R117) and six the host performs on the bus (43_dissector.md R217 to R222). -/

namespace Sys2Proof

/-- Direction of a host bus access; a write carries its data word. -/
inductive Direction where
  | read
  | write (data : Word)
  deriving DecidableEq, Repr

/-- One host bus transaction as 30_encoding.md R124 writes it (address offset, width, direction, data). The offset is the
bus address less FP_BASE; values at or above 0x20000 lie beyond the block's window (20_memory.md R82). -/
structure BusAccess where
  dir    : Direction
  /-- width of the access in bits -/
  width  : Byte
  offset : Word
  deriving DecidableEq, Repr

/-- One constructor per row of the opcode table. -/
inductive Instr where
  /-- ETH_PARSE, 40_ethernet.md R140. -/
  | ethParse
  /-- IPV4_PARSE, 41_ipv4.md R160. -/
  | ipv4Parse
  /-- NET_UNRECOGNIZED, 40_ethernet.md R145; `code` is the selector's code, an ether_type other than 0x0800. -/
  | netUnrecognized (code : Half)
  /-- ICMP_PARSE, 42_transport.md R181. -/
  | icmpParse
  /-- TCP_PARSE, 42_transport.md R185. -/
  | tcpParse
  /-- UDP_PARSE, 42_transport.md R190. -/
  | udpParse
  /-- TRN_UNRECOGNIZED, 42_transport.md R194; `code` is the selector's code, none of 1, 6, 17. -/
  | trnUnrecognized (code : Half)
  /-- HOST_START, 43_dissector.md R217: a 32-bit write to CTRL whose data has bit 0 set. -/
  | hostStart (data : Word)
  /-- HOST_WRITE_FB, 43_dissector.md R218: byte `v` to frame-buffer address `a`. -/
  | hostWriteFb (a : Half) (v : Byte)
  /-- HOST_WRITE_FRAME_LEN, 43_dissector.md R219. -/
  | hostWriteFrameLen (data : Word)
  /-- HOST_READ_REG, 43_dissector.md R220: the register at a byte offset below 0x10000. -/
  | hostReadReg (offset : Half)
  /-- HOST_READ_FB, 43_dissector.md R221: the byte at frame-buffer address `a`. -/
  | hostReadFb (a : Half)
  /-- HOST_WRITE_IGNORED, 43_dissector.md R222: any access that is none of the other five. -/
  | hostWriteIgnored (access : BusAccess)
  deriving DecidableEq, Repr

end Sys2Proof
end

