-- ==== Sys2Proof/WellFormed.lean ====
section
/-! DEFINITION. Which terms of Instr are operations of the block: the checks its tables make on operands. -/

namespace Sys2Proof

/-- The offset of a byte of the FB window, 0x10000 to 0x1FFFE (10_state.md R49). -/
def BusAccess.inFbWindow (a : BusAccess) : Bool :=
  decide (0x10000 ≤ a.offset.toNat) && decide (a.offset.toNat < 0x10000 + Config.fbSize)

/-- An access that is none of HOST_START, HOST_WRITE_FB, HOST_WRITE_FRAME_LEN, HOST_READ_REG and HOST_READ_FB
(20_memory.md R82, 43_dissector.md R222). -/
def BusAccess.ignored (a : BusAccess) : Bool :=
  !(a.width == 8#8 && a.inFbWindow) &&
  match a.dir with
  | .write d =>
    !(a.width == 32#8 && a.offset == 0x0#32 && d.getLsbD 0) && !(a.width == 32#8 && a.offset == 0x8#32)
  | .read =>
    !(a.width == 32#8 && decide (a.offset.toNat < 0x10000) && a.offset.toNat % 4 == 0)

/-- The operand checks, one per constructor that has one. -/
def Instr.wf : Instr → Bool
  | .ethParse => true
  | .ipv4Parse => true
  | .netUnrecognized code => code != Config.etherTypeIpv4
  | .icmpParse => true
  | .tcpParse => true
  | .udpParse => true
  | .trnUnrecognized code => code != 1#16 && code != 6#16 && code != 17#16
  | .hostStart data => data.getLsbD 0
  | .hostWriteFb a _ => decide (a.toNat < Config.fbSize)
  | .hostWriteFrameLen _ => true
  | .hostReadReg offset => offset.toNat % 4 == 0
  | .hostReadFb a => decide (a.toNat < Config.fbSize)
  | .hostWriteIgnored access => access.ignored

end Sys2Proof
end

