-- ==== Sys2Proof/Decode.lean ====
section
/-! DEFINITION. Decoding and encoding. The engine's operation is selected from a 19-bit selector by the dispatch table
(30_encoding.md R116, R117); the host's operation is classified from its bus access (20_memory.md R82, 43_dissector.md
R217 to R222). The 80-bit operation word that writes both down as bits is the model's own (log 2). -/

namespace Sys2Proof

/-! ## The dispatch table -/

/-- One row of 30_encoding.md R117: a selector meets the row when its bits under the mask equal the match value. The
operation may carry the selector's code. -/
structure DispatchRow where
  matchBits : BitVec 19
  mask      : BitVec 19
  operation : Half → Instr

/-- The rows of 30_encoding.md R117, in the order they are tried. -/
def dispatchTable : List DispatchRow :=
  [ ⟨0x10000#19, 0x70000#19, fun _ => .ethParse⟩,
    ⟨0x20800#19, 0x7FFFF#19, fun _ => .ipv4Parse⟩,
    ⟨0x20000#19, 0x70000#19, fun code => .netUnrecognized code⟩,
    ⟨0x30001#19, 0x7FFFF#19, fun _ => .icmpParse⟩,
    ⟨0x30006#19, 0x7FFFF#19, fun _ => .tcpParse⟩,
    ⟨0x30011#19, 0x7FFFF#19, fun _ => .udpParse⟩,
    ⟨0x30000#19, 0x70000#19, fun code => .trnUnrecognized code⟩ ]

/-- `(SEL & mask) = match` (R117). -/
def DispatchRow.meets (row : DispatchRow) (sel : BitVec 19) : Bool :=
  (sel &&& row.mask) == row.matchBits

/-- SEL[15:0] (R116). -/
def selectorCode (sel : BitVec 19) : Half := sel.extractLsb' 0 16

/-- SEL[18:16] (R116). -/
def selectorStage (sel : BitVec 19) : BitVec 3 := sel.extractLsb' 16 3

/-- The first row that matches names the operation (R117); none for a stage the engine forms no selector at. -/
def decodeSelector (sel : BitVec 19) : Option Instr :=
  (dispatchTable.find? (fun row => row.meets sel)).map (fun row => row.operation (selectorCode sel))

/-! ## Host bus accesses -/

/-- The host operation a bus access is: HOST_START, HOST_WRITE_FRAME_LEN and HOST_WRITE_FB among writes, HOST_READ_REG and
HOST_READ_FB among reads, and HOST_WRITE_IGNORED for every other access (43_dissector.md R217 to R222, 20_memory.md R82). -/
def decodeAccess (a : BusAccess) : Instr :=
  match a.dir with
  | .write d =>
    if a.width = 32#8 ∧ a.offset = 0x0#32 ∧ d.getLsbD 0 = true then .hostStart d
    else if a.width = 32#8 ∧ a.offset = 0x8#32 then .hostWriteFrameLen d
    else if a.width = 8#8 ∧ 0x10000 ≤ a.offset.toNat ∧ a.offset.toNat ≤ 0x1FFFE then
      .hostWriteFb (a.offset.setWidth 16) (d.setWidth 8)
    else .hostWriteIgnored a
  | .read =>
    if a.width = 32#8 ∧ a.offset.toNat < 0x10000 ∧ a.offset.toNat % 4 = 0 then
      .hostReadReg (a.offset.setWidth 16)
    else if a.width = 8#8 ∧ 0x10000 ≤ a.offset.toNat ∧ a.offset.toNat ≤ 0x1FFFE then
      .hostReadFb (a.offset.setWidth 16)
    else .hostWriteIgnored a

/-! ## Operation words -/

/-- What an operation word stands for: a selector of the engine or an access of the host. -/
inductive Fetched where
  | selector (sel : BitVec 19)
  | access (a : BusAccess)
  deriving DecidableEq, Repr

/-- Why a run of bytes is no operation word. -/
inductive DecodeError where
  /-- fewer than ten bytes -/
  | shortInput
  /-- the form byte is none of 0, 1, 2 -/
  | reservedForm
  /-- a table word, or a read, with bits in a place that must be zero -/
  | reservedBits
  /-- a table word that is neither a selector of a stage with engine steps nor a 16-bit register offset -/
  | noTableRow
  deriving DecidableEq, Repr

/-- The access a bare table word stands for, when it is no selector: the host-bus row of spec/opcode_table.json that the word
meets first, in the table's order, with zero operands (log 2). -/
def bareAccess (w : Word) : BusAccess :=
  if w = 0x0#32 then ⟨.write 1#32, 32#8, w⟩
  else if w = 0x8#32 then ⟨.write 0#32, 32#8, w⟩
  else if w.toNat % 4 = 0 then ⟨.read, 32#8, w⟩
  else ⟨.write 0#32, 32#8, w⟩

/-- A bare table word: a selector when its stage field is ETH, NET or TRN, an access below 0x10000. -/
def readTableWord (w : Word) : Except DecodeError Fetched :=
  if 0x10000 ≤ w.toNat ∧ w.toNat < 0x40000 then .ok (.selector (w.setWidth 19))
  else if w.toNat < 0x10000 then .ok (.access (bareAccess w))
  else .error .noTableRow

/-- Bits 31:0 hold the table word or the bus offset, 39:32 the form (0 table word, 1 bus read, 2 bus write), 47:40 the
width in bits and 79:48 the data of a write (log 2). -/
def readWord (w : BitVec 80) : Except DecodeError Fetched :=
  let low := w.extractLsb' 0 32
  let form := w.extractLsb' 32 8
  let width := w.extractLsb' 40 8
  let data := w.extractLsb' 48 32
  if form = 0#8 then
    if width = 0#8 ∧ data = 0#32 then readTableWord low else .error .reservedBits
  else if form = 1#8 then
    if data = 0#32 then .ok (.access ⟨.read, width, low⟩) else .error .reservedBits
  else if form = 2#8 then .ok (.access ⟨.write data, width, low⟩)
  else .error .reservedForm

/-- The operation a fetched selector or access names. -/
def Fetched.instr : Fetched → Except DecodeError Instr
  | .selector sel =>
    match decodeSelector sel with
    | some i => .ok i
    | none => .error .noTableRow
  | .access a => .ok (decodeAccess a)

/-- The operation of an 80-bit word. -/
def decodeWord (w : BitVec 80) : Except DecodeError Instr :=
  match readWord w with
  | .ok f => f.instr
  | .error e => .error e

/-- Ten bytes as one word, the first byte least significant (the numbering of spec/opcode_table.json; log 2). -/
def wordOfBytes : List Byte → Option (BitVec 80 × List Byte)
  | b0 :: b1 :: b2 :: b3 :: b4 :: b5 :: b6 :: b7 :: b8 :: b9 :: rest =>
    some (b9 ++ b8 ++ b7 ++ b6 ++ b5 ++ b4 ++ b3 ++ b2 ++ b1 ++ b0, rest)
  | _ => none

/-- Decoding of any bytes: an operation and the bytes after its word, or the reason there is none. -/
def decode (bytes : List Byte) : Except DecodeError (Instr × List Byte) :=
  match wordOfBytes bytes with
  | none => .error .shortInput
  | some (w, rest) =>
    match decodeWord w with
    | .ok i => .ok (i, rest)
    | .error e => .error e

/-! ## Encoding -/

/-- A bare table word as an operation word. -/
def tableWord (w : BitVec 19) : BitVec 80 := w.setWidth 80

/-- A bus access as an operation word. -/
def accessWord (a : BusAccess) : BitVec 80 :=
  match a.dir with
  | .read => 0#32 ++ a.width ++ 1#8 ++ a.offset
  | .write d => d ++ a.width ++ 2#8 ++ a.offset

/-- The offset of a byte of the FB window, `0x10000 + a` (43_dissector.md R218). -/
def fbOffset (a : Half) : Word := 0x10000#32 + a.setWidth 32

/-- The word of an operation, from the match values of 30_encoding.md R117 and the accesses of 43_dissector.md R217 to R222. -/
def encodeWord : Instr → BitVec 80
  | .ethParse => tableWord 0x10000#19
  | .ipv4Parse => tableWord 0x20800#19
  | .netUnrecognized code => tableWord (2#3 ++ code)
  | .icmpParse => tableWord 0x30001#19
  | .tcpParse => tableWord 0x30006#19
  | .udpParse => tableWord 0x30011#19
  | .trnUnrecognized code => tableWord (3#3 ++ code)
  | .hostStart data => accessWord ⟨.write data, 32#8, 0x0#32⟩
  | .hostWriteFb a v => accessWord ⟨.write (v.setWidth 32), 8#8, fbOffset a⟩
  | .hostWriteFrameLen data => accessWord ⟨.write data, 32#8, 0x8#32⟩
  | .hostReadReg offset => accessWord ⟨.read, 32#8, offset.setWidth 32⟩
  | .hostReadFb a => accessWord ⟨.read, 8#8, fbOffset a⟩
  | .hostWriteIgnored access => accessWord access

/-- The ten bytes of a word, least significant first. -/
def bytesOfWord (w : BitVec 80) : List Byte :=
  [ w.extractLsb' 0 8, w.extractLsb' 8 8, w.extractLsb' 16 8, w.extractLsb' 24 8, w.extractLsb' 32 8,
    w.extractLsb' 40 8, w.extractLsb' 48 8, w.extractLsb' 56 8, w.extractLsb' 64 8, w.extractLsb' 72 8 ]

/-- The bytes of an operation. -/
def encode (i : Instr) : List Byte := bytesOfWord (encodeWord i)

/-! ## The table's words -/

/-- The operation word of a table word of `nbits` bits whose bits are `w`, every higher bit zero. A word too short to hold a
17-bit offset or a selector can only be the row without bits, HOST_WRITE_IGNORED, and stands for a write of no width (log 2). -/
def wordOfTable (nbits w : Nat) : BitVec 80 :=
  if nbits < 17 then accessWord ⟨.write 0#32, 0#8, BitVec.ofNat 32 w⟩ else BitVec.ofNat 80 w

/-- The operation the decoder reads from a table word. -/
def decodeTableWord (nbits w : Nat) : Option Instr :=
  match decode (bytesOfWord (wordOfTable nbits w)) with
  | .ok (i, _) => some i
  | .error _ => none

end Sys2Proof
end

