-- ==== Sys2Proof/Machine/State.lean ====
section
/-! DEFINITION. The state of one frame parser as plain data: the frame buffer and the registers of 10_state.md R32 and R45,
and four fields of the model's own (the bus window, the power-up count, the schedule and the bus read data). -/

namespace Sys2Proof.Machine

/-- STAGE, the engine's program counter (10_state.md R33). The reserved codes 5 to 7 are left out, as R34 allows. -/
inductive Stage where
  | idle
  | eth
  | net
  | trn
  | done
  deriving DecidableEq, Repr

/-- OUTCOME (10_state.md R40); code 7 is never written and left out. -/
inductive DissectionOutcome where
  | none
  | ethOnly
  | ipv4Unrecognized
  | icmp
  | tcp
  | udp
  | failed
  deriving DecidableEq, Repr

/-- ERR_KIND (10_state.md R41); code 3 is never written and left out. -/
inductive ErrKind where
  | none
  | truncatedInput
  | badHeaderLength
  deriving DecidableEq, Repr

/-- ERR_LAYER (10_state.md R42); codes 6 and 7 are never written and left out. -/
inductive ErrLayer where
  | none
  | eth
  | ipv4
  | icmp
  | tcp
  | udp
  deriving DecidableEq, Repr

/-- The result registers with the widths of 10_state.md R45. -/
structure Results where
  ethDst     : Mac
  ethSrc     : Mac
  ethType    : Half
  ipVersion  : BitVec 4
  ipHlen     : BitVec 6
  ipTtl      : Byte
  ipProto    : Byte
  ipSrc      : Word
  ipDst      : Word
  icmpType   : Byte
  icmpCode   : Byte
  icmpCsum   : Half
  tcpSport   : Half
  tcpDport   : Half
  tcpSeq     : Word
  tcpAck     : Word
  tcpDoff    : BitVec 6
  tcpFlags   : BitVec 6
  udpSport   : Half
  udpDport   : Half
  udpLen     : Half
  payloadOff : Half
  payloadLen : Half
  deriving DecidableEq, Repr

/-- Every result register 0: their reset value, what START leaves and what an abort leaves (10_state.md R44). -/
def Results.zero : Results where
  ethDst     := 0
  ethSrc     := 0
  ethType    := 0
  ipVersion  := 0
  ipHlen     := 0
  ipTtl      := 0
  ipProto    := 0
  ipSrc      := 0
  ipDst      := 0
  icmpType   := 0
  icmpCode   := 0
  icmpCsum   := 0
  tcpSport   := 0
  tcpDport   := 0
  tcpSeq     := 0
  tcpAck     := 0
  tcpDoff    := 0
  tcpFlags   := 0
  udpSport   := 0
  udpDport   := 0
  udpLen     := 0
  payloadOff := 0
  payloadLen := 0

/-- The host-visible registers that have a name in the map of 10_state.md R49. -/
inductive HostReg where
  | ctrl
  | status
  | frameLen
  | stage
  | cursor
  | payloadOff
  | payloadLen
  | ethDstHi
  | ethDstLo
  | ethSrcHi
  | ethSrcLo
  | ethType
  | ipVersion
  | ipHlen
  | ipTtl
  | ipProto
  | ipSrc
  | ipDst
  | icmpType
  | icmpCode
  | icmpCsum
  | tcpSport
  | tcpDport
  | tcpSeq
  | tcpAck
  | tcpDoff
  | tcpFlags
  | udpSport
  | udpDport
  | udpLen
  deriving DecidableEq, Repr

/-- The frame buffer: the bytes the host has written since power-up, by address. An address that is not listed holds no
written byte (log 1); the canonical form is strictly rising addresses below 65535 (Memory.wf, Machine/Ops.lean). -/
abbrev Memory := List Host.Cell

/-- One atomic event of an FP instance (20_memory.md R87, 70_reset_and_hazards.md R290, R291). -/
inductive Event where
  /-- one engine step -/
  | engine
  /-- one host operation -/
  | bus (access : BusAccess)
  /-- the reset input -/
  | reset
  /-- power-up -/
  | powerUp
  deriving DecidableEq, Repr

/-- The state of one FP instance. The last four fields are the model's own, not the block's. -/
structure State where
  /-- FB, 20_memory.md R70 -/
  fb        : Memory
  /-- FRAME_LEN, 10_state.md R37 -/
  frameLen  : Half
  /-- STAGE, 10_state.md R33 -/
  stage     : Stage
  /-- CURSOR, 10_state.md R35 -/
  cursor    : Half
  /-- OUTCOME, 10_state.md R40 -/
  outcome   : DissectionOutcome
  /-- ERR_KIND, 10_state.md R41 -/
  errKind   : ErrKind
  /-- ERR_LAYER, 10_state.md R42 -/
  errLayer  : ErrLayer
  /-- VMISMATCH, 10_state.md R43 -/
  vmismatch : Bool
  /-- the result registers, 10_state.md R45 -/
  results   : Results
  /-- MODEL'S OWN (log 7): the argument FP_BASE, as the number of the 128 KiB window of the host bus; it identifies the instance
  (60_exceptions.md R269), and no event changes it. -/
  fpWindow  : BitVec 15
  /-- MODEL'S OWN (log 1): how many power-ups there were before this one; it picks the draws of unwritten bytes. -/
  powerUps  : Nat
  /-- MODEL'S OWN (log 3): the events still to come, in order (20_memory.md R87, 43_dissector.md R214). -/
  schedule  : List Event
  /-- MODEL'S OWN (log 4): what the last host read returned. -/
  readData  : Word
  deriving DecidableEq, Repr

/-- Nothing stops the block: "Nothing in the core is fatal to the process" (60_exceptions.md R262), every access is permitted
and no engine step lacks a meaning (R263). So there is no fault, and nobody raises one. -/
inductive Fault where
  deriving DecidableEq, Repr

/-- Why a step has no meaning. -/
inductive Refusal where
  /-- Raised by an arm of `exec` whose operation has no meaning yet: safe. No arm raises it now. -/
  | notModelled (mnemonic : String)
  deriving DecidableEq, Repr

/-- What one step answers. -/
abbrev Res := Host.Outcome State Fault Refusal

/-- The block right after power-up: the writes of 10_state.md R53, and no byte of FB written (70_reset_and_hazards.md R291).
The model's own fields: window 0, the first power-up, no event to come, and read data 0 (DESIGN CHOICE, logs 7, 1, 3, 4). -/
def State.reset : State where
  fb        := []
  frameLen  := 0
  stage     := .idle
  cursor    := 0
  outcome   := .none
  errKind   := .none
  errLayer  := .none
  vmismatch := false
  results   := Results.zero
  fpWindow  := 0
  powerUps  := 0
  schedule  := []
  readData  := 0

end Sys2Proof.Machine
end

