-- ==== Sys2Proof/Machine/Ops.lean ====
section
/-! DEFINITION. The shared operations over the frame buffer and the registers: reading and writing FB, `raise` (60_exceptions.md
R256), `finish` (43_dissector.md R216), accepting START (R217) and reset (70_reset_and_hazards.md R290, R291). -/

namespace Sys2Proof.Machine

/-! ## The frame buffer -/

/-- The byte written at an address since power-up, if any. -/
def Memory.lookup : Memory → Nat → Option Byte
  | [], _ => none
  | (k, v) :: m, a => if k = a then some v else Memory.lookup m a

/-- The memory with one byte written, addresses kept strictly rising. -/
def Memory.insert (a : Nat) (v : Byte) : Memory → Memory
  | [] => [(a, v)]
  | (k, w) :: m =>
    if a < k then (a, v) :: (k, w) :: m
    else if a = k then (a, v) :: m
    else (k, w) :: Memory.insert a v m

/-- Addresses rise strictly from `lo` on and stay below FB_SIZE. -/
def Memory.wfFrom (lo : Nat) : Memory → Bool
  | [] => true
  | (k, _) :: m => decide (lo ≤ k) && decide (k < Config.fbSize) && Memory.wfFrom (k + 1) m

/-- The canonical form. An unlisted address holds no written byte, so no entry equals what an unlisted address holds. -/
def Memory.wf (m : Memory) : Bool := Memory.wfFrom 0 m

/-- `FB[a]` (00_scope.md R12): the byte the host wrote, else the draw of this power-up (20_memory.md R71). -/
def State.fbByte (s : State) (a : Nat) : Byte :=
  match Memory.lookup s.fb a with
  | some v => v
  | none => Config.powerUpByte s.fpWindow s.powerUps a

/-- `MemWrite(a, 1, v)` (20_memory.md R76). FB has no byte at 0xFFFF (R70), so nothing is written there. -/
def State.writeFb (a : Nat) (v : Byte) (s : State) : State :=
  if a < Config.fbSize then { s with fb := Memory.insert a v s.fb } else s

/-! ## The engine's stage -/

/-- STAGE ∈ {ETH, NET, TRN}: an engine step is enabled (43_dissector.md R211). -/
def Stage.busy : Stage → Bool
  | .idle => false
  | .eth => true
  | .net => true
  | .trn => true
  | .done => false

/-- STATUS.BUSY (10_state.md R39). -/
def State.busy (s : State) : Bool := s.stage.busy

/-! ## Ends of a dissection -/

/-- `raise E(layer)` (60_exceptions.md R256): the whole effect of an aborting engine step. -/
def State.abort (kind : ErrKind) (layer : ErrLayer) (s : State) : State :=
  { s with
    results   := Results.zero
    vmismatch := false
    outcome   := .failed
    errKind   := kind
    errLayer  := layer
    stage     := .done }

/-- `finish(outcome, off, len)` (43_dissector.md R216). -/
def State.finish (outcome : DissectionOutcome) (off len : Nat) (s : State) : State :=
  { s with
    outcome := outcome
    results := { s.results with payloadOff := BitVec.ofNat 16 off, payloadLen := BitVec.ofNat 16 len }
    stage   := .done }

/-! ## Start and reset -/

/-- What an accepted START writes (43_dissector.md R217). -/
def State.startDissection (s : State) : State :=
  { s with
    outcome   := .none
    errKind   := .none
    errLayer  := .none
    vmismatch := false
    results   := Results.zero
    cursor    := 0
    stage     := .eth }

/-- The reset input (70_reset_and_hazards.md R290): the writes of 10_state.md R53; FB is not written. -/
def State.resetBlock (s : State) : State :=
  { s with
    stage     := .idle
    cursor    := 0
    frameLen  := 0
    outcome   := .none
    errKind   := .none
    errLayer  := .none
    vmismatch := false
    results   := Results.zero }

/-- Power-up (70_reset_and_hazards.md R291): reset, and every FB byte becomes a new draw. -/
def State.powerUpBlock (s : State) : State :=
  { s.resetBlock with fb := [], powerUps := s.powerUps + 1 }

end Sys2Proof.Machine
end

