-- ==== Sys2Proof/Machine/Operands.lean ====
section
/-! DEFINITION. Where operations take their operands from: the field reads of FieldCodec (20_memory.md R73 to R77), the header
fields of 30_encoding.md R101 to R111, the dispatch selector (R116). -/

namespace Sys2Proof.Machine

/-! ## Reads of the frame buffer -/

/-- `MemRead(a, 1)` (20_memory.md R73). -/
def State.memRead1 (s : State) (a : Nat) : Byte := s.fbByte a

/-- `MemRead(a, 2)` (R73): the byte at the lower address is the more significant. -/
def State.memRead2 (s : State) (a : Nat) : Half := s.fbByte a ++ s.fbByte (a + 1)

/-- `MemRead(a, 4)` (R73). -/
def State.memRead4 (s : State) (a : Nat) : Word :=
  s.fbByte a ++ s.fbByte (a + 1) ++ s.fbByte (a + 2) ++ s.fbByte (a + 3)

/-- `MemBytes(a, 4)` (20_memory.md R74). -/
def State.memBytes4 (s : State) (a : Nat) : Word :=
  s.fbByte a ++ s.fbByte (a + 1) ++ s.fbByte (a + 2) ++ s.fbByte (a + 3)

/-- `MemBytes(a, 6)` (R74). -/
def State.memBytes6 (s : State) (a : Nat) : Mac :=
  s.fbByte a ++ s.fbByte (a + 1) ++ s.fbByte (a + 2) ++ s.fbByte (a + 3) ++ s.fbByte (a + 4) ++ s.fbByte (a + 5)

/-- The FieldCodec bounds rule (20_memory.md R75): a read of `n` bytes at offset `o` of a slice of length `len` fails when
`o + n > len`. -/
def exceeds (o n len : Nat) : Bool := decide (len < o + n)

/-- `avail = FRAME_LEN − CURSOR` (10_state.md R36), on naturals: 0 where CURSOR exceeds FRAME_LEN (log 5). -/
def State.avail (s : State) : Nat := s.frameLen.toNat - s.cursor.toNat

/-- A header of `n` bytes does not fit what remains of the frame. -/
def State.lacks (s : State) (n : Nat) : Bool := exceeds 0 n s.avail

/-! ## Header fields -/

/-- `version = b0[7:4]` (30_encoding.md R108). -/
def versionOf (b0 : Byte) : BitVec 4 := b0.extractLsb' 4 4

/-- `IHL = b0[3:0]` (R108). -/
def ihlOf (b0 : Byte) : BitVec 4 := b0.extractLsb' 0 4

/-- `dn = W[15:12]` (30_encoding.md R110). -/
def dataOffsetOf (w : Half) : BitVec 4 := w.extractLsb' 12 4

/-- A header length in bytes from its nibble, `zext_6(n) << 2` (30_encoding.md R109, R111). -/
def lenBytes (n : BitVec 4) : BitVec 6 := n.setWidth 6 <<< 2

/-- A nibble whose header would be below 20 bytes (41_ipv4.md R161, 42_transport.md R187). -/
def nibbleTooSmall (n : BitVec 4) : Bool := decide (n.toNat < Config.minLenNibble)

/-- Byte 0 of the IPv4 header at CURSOR (30_encoding.md R102). -/
def State.ipv4FirstByte (s : State) : Byte := s.memRead1 s.cursor.toNat

/-- The offset and flags word of the TCP header at CURSOR (30_encoding.md R105). -/
def State.tcpWord (s : State) : Half := s.memRead2 (s.cursor.toNat + 12)

/-! ## The dispatch selector -/

/-- `SEL = zext_3(pc) ++ CODE` (30_encoding.md R116); none at IDLE and DONE. -/
def State.selector (s : State) : Option (BitVec 19) :=
  match s.stage with
  | .idle => none
  | .eth => some (1#3 ++ 0x0000#16)
  | .net => some (2#3 ++ s.results.ethType)
  | .trn => some (3#3 ++ s.results.ipProto.setWidth 16)
  | .done => none

/-- The operation of the next engine step (43_dissector.md R213), if one is enabled. -/
def State.engineOp (s : State) : Option Instr :=
  match s.selector with
  | none => none
  | some sel => decodeSelector sel

end Sys2Proof.Machine
end

