-- ==== Sys2Proof/Machine/Flags.lean ====
section
/-! DEFINITION. Flags and the host's views of the registers: the TCP flags (42_transport.md R186), the version warning
(41_ipv4.md R162), the codes of the status registers, the STATUS word (10_state.md R39) and the register map (R49). -/

namespace Sys2Proof.Machine

/-! ## Flags the parse operations compute -/

/-- `TCP_FLAGS = W[5:0]` (42_transport.md R186, 30_encoding.md R112). -/
def tcpFlagsOf (w : Half) : BitVec 6 := w.extractLsb' 0 6

/-- VMISMATCH: the version nibble is not 4 (41_ipv4.md R162). -/
def versionMismatch (b0 : Byte) : Bool := versionOf b0 != 4#4

/-! ## Codes -/

/-- The codes of 10_state.md R33. -/
def Stage.code : Stage → BitVec 3
  | .idle => 0
  | .eth => 1
  | .net => 2
  | .trn => 3
  | .done => 4

/-- The codes of 10_state.md R40. -/
def DissectionOutcome.code : DissectionOutcome → BitVec 3
  | .none => 0
  | .ethOnly => 1
  | .ipv4Unrecognized => 2
  | .icmp => 3
  | .tcp => 4
  | .udp => 5
  | .failed => 6

/-- The codes of 10_state.md R41. -/
def ErrKind.code : ErrKind → BitVec 2
  | .none => 0
  | .truncatedInput => 1
  | .badHeaderLength => 2

/-- The codes of 10_state.md R42. -/
def ErrLayer.code : ErrLayer → BitVec 3
  | .none => 0
  | .eth => 1
  | .ipv4 => 2
  | .icmp => 3
  | .tcp => 4
  | .udp => 5

/-! ## STATUS -/

/-- STATUS.DONE (10_state.md R39). -/
def State.doneFlag (s : State) : Bool := s.stage == .done

/-- STATUS.ERROR (R39). -/
def State.errorFlag (s : State) : Bool := s.outcome == .failed

/-- ETH_VALID (R39): OUTCOME ∈ {1, 2, 3, 4, 5}. -/
def DissectionOutcome.ethValid : DissectionOutcome → Bool
  | .none => false
  | .ethOnly => true
  | .ipv4Unrecognized => true
  | .icmp => true
  | .tcp => true
  | .udp => true
  | .failed => false

/-- IPV4_VALID (R39): OUTCOME ∈ {2, 3, 4, 5}. -/
def DissectionOutcome.ipv4Valid : DissectionOutcome → Bool
  | .none => false
  | .ethOnly => false
  | .ipv4Unrecognized => true
  | .icmp => true
  | .tcp => true
  | .udp => true
  | .failed => false

/-- ICMP_VALID (R39): OUTCOME = 3. -/
def DissectionOutcome.icmpValid (o : DissectionOutcome) : Bool := o == .icmp

/-- TCP_VALID (R39): OUTCOME = 4. -/
def DissectionOutcome.tcpValid (o : DissectionOutcome) : Bool := o == .tcp

/-- UDP_VALID (R39): OUTCOME = 5. -/
def DissectionOutcome.udpValid (o : DissectionOutcome) : Bool := o == .udp

/-- PAYLOAD_VALID (R39): OUTCOME ∈ {1, 2, 3, 4, 5}. -/
def DissectionOutcome.payloadValid (o : DissectionOutcome) : Bool := o.ethValid

/-- One bit of a word. -/
def flagBit (b : Bool) : BitVec 1 := BitVec.ofBool b

/-- The STATUS word (10_state.md R39), bits 31:22 first. -/
def State.statusWord (s : State) : Word :=
  0#10 ++ flagBit s.outcome.payloadValid ++ flagBit s.outcome.udpValid ++ flagBit s.outcome.tcpValid
    ++ flagBit s.outcome.icmpValid ++ flagBit s.outcome.ipv4Valid ++ flagBit s.outcome.ethValid
    ++ 0#1 ++ s.errLayer.code ++ 0#2 ++ s.errKind.code ++ 0#1 ++ s.outcome.code
    ++ flagBit s.vmismatch ++ flagBit s.errorFlag ++ flagBit s.doneFlag ++ flagBit s.busy

/-! ## The register map -/

/-- The offsets of 10_state.md R49. -/
def HostReg.offset : HostReg → Half
  | .ctrl => 0x000
  | .status => 0x004
  | .frameLen => 0x008
  | .stage => 0x00C
  | .cursor => 0x010
  | .payloadOff => 0x014
  | .payloadLen => 0x018
  | .ethDstHi => 0x020
  | .ethDstLo => 0x024
  | .ethSrcHi => 0x028
  | .ethSrcLo => 0x02C
  | .ethType => 0x030
  | .ipVersion => 0x040
  | .ipHlen => 0x044
  | .ipTtl => 0x048
  | .ipProto => 0x04C
  | .ipSrc => 0x050
  | .ipDst => 0x054
  | .icmpType => 0x060
  | .icmpCode => 0x064
  | .icmpCsum => 0x068
  | .tcpSport => 0x070
  | .tcpDport => 0x074
  | .tcpSeq => 0x078
  | .tcpAck => 0x07C
  | .tcpDoff => 0x080
  | .tcpFlags => 0x084
  | .udpSport => 0x090
  | .udpDport => 0x094
  | .udpLen => 0x098

/-- The registers of R49 that have a name, in the order of their offsets. -/
def HostReg.all : List HostReg :=
  [ .ctrl, .status, .frameLen, .stage, .cursor, .payloadOff, .payloadLen,
    .ethDstHi, .ethDstLo, .ethSrcHi, .ethSrcLo, .ethType,
    .ipVersion, .ipHlen, .ipTtl, .ipProto, .ipSrc, .ipDst,
    .icmpType, .icmpCode, .icmpCsum,
    .tcpSport, .tcpDport, .tcpSeq, .tcpAck, .tcpDoff, .tcpFlags,
    .udpSport, .udpDport, .udpLen ]

/-- What a 32-bit read of a register gives: its value with the unused bits 0, and 0 for CTRL (10_state.md R38, R46, R49). -/
def State.regValue (s : State) : HostReg → Word
  | .ctrl => 0
  | .status => s.statusWord
  | .frameLen => s.frameLen.setWidth 32
  | .stage => s.stage.code.setWidth 32
  | .cursor => s.cursor.setWidth 32
  | .payloadOff => s.results.payloadOff.setWidth 32
  | .payloadLen => s.results.payloadLen.setWidth 32
  | .ethDstHi => (s.results.ethDst.extractLsb' 32 16).setWidth 32
  | .ethDstLo => s.results.ethDst.extractLsb' 0 32
  | .ethSrcHi => (s.results.ethSrc.extractLsb' 32 16).setWidth 32
  | .ethSrcLo => s.results.ethSrc.extractLsb' 0 32
  | .ethType => s.results.ethType.setWidth 32
  | .ipVersion => s.results.ipVersion.setWidth 32
  | .ipHlen => s.results.ipHlen.setWidth 32
  | .ipTtl => s.results.ipTtl.setWidth 32
  | .ipProto => s.results.ipProto.setWidth 32
  | .ipSrc => s.results.ipSrc
  | .ipDst => s.results.ipDst
  | .icmpType => s.results.icmpType.setWidth 32
  | .icmpCode => s.results.icmpCode.setWidth 32
  | .icmpCsum => s.results.icmpCsum.setWidth 32
  | .tcpSport => s.results.tcpSport.setWidth 32
  | .tcpDport => s.results.tcpDport.setWidth 32
  | .tcpSeq => s.results.tcpSeq
  | .tcpAck => s.results.tcpAck
  | .tcpDoff => s.results.tcpDoff.setWidth 32
  | .tcpFlags => s.results.tcpFlags.setWidth 32
  | .udpSport => s.results.udpSport.setWidth 32
  | .udpDport => s.results.udpDport.setWidth 32
  | .udpLen => s.results.udpLen.setWidth 32

/-- The register at an offset of the map, if one stands there. -/
def regAt (offset : Half) : Option HostReg :=
  HostReg.all.find? (fun r => r.offset == offset)

/-- A 32-bit read at a register offset: reserved offsets read 0 (10_state.md R50). -/
def State.readReg (s : State) (offset : Half) : Word :=
  match regAt offset with
  | some r => s.regValue r
  | none => 0

end Sys2Proof.Machine
end

