-- ==== Sys2Proof/Machine/Ethernet.lean ====
section
/-! DEFINITION. The link-layer operations: ETH_PARSE and NET_UNRECOGNIZED (40_ethernet.md). -/

namespace Sys2Proof.Machine

/-- ETH_PARSE (40_ethernet.md R140, R141; layout 30_encoding.md R101). -/
def execEthParse (s : State) : Res :=
  let c := s.cursor.toNat
  if s.lacks Config.ethHdrLen then .next (s.abort .truncatedInput .eth)
  else .next { s with
    results := { s.results with
      ethDst  := s.memBytes6 c
      ethSrc  := s.memBytes6 (c + 6)
      ethType := s.memRead2 (c + 12) }
    cursor := BitVec.ofNat 16 (c + Config.ethHdrLen)
    stage := .net }

/-- NET_UNRECOGNIZED (40_ethernet.md R145). -/
def execNetUnrecognized (s : State) : Res :=
  .next (s.finish .ethOnly s.cursor.toNat s.avail)

end Sys2Proof.Machine
end

