-- ==== Sys2Proof/Machine/HostOps.lean ====
section
/-! DEFINITION. The host operations (43_dissector.md R217 to R222). What a read returns to the host is kept in `readData`. -/

namespace Sys2Proof.Machine

/-- HOST_START (43_dissector.md R217): accepted at IDLE and DONE, ignored while busy. -/
def execHostStart (s : State) : Res :=
  if s.busy then .next s else .next s.startDissection

/-- HOST_WRITE_FB (43_dissector.md R218): dropped while busy. -/
def execHostWriteFb (a : Half) (v : Byte) (s : State) : Res :=
  if s.busy then .next s else .next (s.writeFb a.toNat v)

/-- HOST_WRITE_FRAME_LEN (43_dissector.md R219): bits 15:0, dropped while busy. -/
def execHostWriteFrameLen (data : Word) (s : State) : Res :=
  if s.busy then .next s else .next { s with frameLen := data.setWidth 16 }

/-- HOST_READ_REG (43_dissector.md R220). -/
def execHostReadReg (offset : Half) (s : State) : Res :=
  .next { s with readData := s.readReg offset }

/-- HOST_READ_FB (43_dissector.md R221); 0x1FFFF, where FB has no byte, reads 0 (10_state.md R49). -/
def execHostReadFb (a : Half) (s : State) : Res :=
  .next { s with readData := if a.toNat < Config.fbSize then (s.fbByte a.toNat).setWidth 32 else 0 }

/-- HOST_WRITE_IGNORED (43_dissector.md R222, 20_memory.md R82): a write changes nothing, a read returns 0. -/
def execHostWriteIgnored (access : BusAccess) (s : State) : Res :=
  match access.dir with
  | .write _ => .next s
  | .read => .next { s with readData := 0 }

end Sys2Proof.Machine
end

