-- ==== Sys2Proof/Machine/Ipv4.lean ====
section
/-! DEFINITION. The network-layer operation IPV4_PARSE (41_ipv4.md). -/

namespace Sys2Proof.Machine

/-- The registers a successful IPV4_PARSE writes, and the move to TRN (41_ipv4.md R160; layout 30_encoding.md R102). -/
def ipv4Accept (s : State) : State :=
  let c := s.cursor.toNat
  let b0 := s.ipv4FirstByte
  let hlen := lenBytes (ihlOf b0)
  { s with
    vmismatch := versionMismatch b0
    results := { s.results with
      ipVersion := versionOf b0
      ipHlen    := hlen
      ipTtl     := s.memRead1 (c + 8)
      ipProto   := s.memRead1 (c + 9)
      ipSrc     := s.memBytes4 (c + 12)
      ipDst     := s.memBytes4 (c + 16) }
    cursor := BitVec.ofNat 16 (c + hlen.toNat)
    stage := .trn }

/-- IPV4_PARSE (41_ipv4.md R160), its checks in the order of R161. -/
def execIpv4Parse (s : State) : Res :=
  if s.lacks Config.ipv4MinLen then .next (s.abort .truncatedInput .ipv4)
  else if nibbleTooSmall (ihlOf s.ipv4FirstByte) then .next (s.abort .badHeaderLength .ipv4)
  else if s.lacks (lenBytes (ihlOf s.ipv4FirstByte)).toNat then .next (s.abort .truncatedInput .ipv4)
  else .next (ipv4Accept s)

end Sys2Proof.Machine
end

