-- ==== Sys2Proof/Machine/Transport.lean ====
section
/-! DEFINITION. The transport-layer operations ICMP_PARSE, TCP_PARSE, UDP_PARSE and TRN_UNRECOGNIZED (42_transport.md). -/

namespace Sys2Proof.Machine

/-- ICMP_PARSE (42_transport.md R181, R182; layout 30_encoding.md R103). -/
def execIcmpParse (s : State) : Res :=
  let c := s.cursor.toNat
  if s.lacks Config.icmpHdrLen then .next (s.abort .truncatedInput .icmp)
  else .next (State.finish .icmp (c + Config.icmpHdrLen) (s.avail - Config.icmpHdrLen) { s with
    results := { s.results with
      icmpType := s.memRead1 c
      icmpCode := s.memRead1 (c + 1)
      icmpCsum := s.memRead2 (c + 2) } })

/-- The registers a successful TCP_PARSE writes, and its end (42_transport.md R185; layout 30_encoding.md R104, R105). -/
def tcpAccept (s : State) : State :=
  let c := s.cursor.toNat
  let doff := lenBytes (dataOffsetOf s.tcpWord)
  State.finish .tcp (c + doff.toNat) (s.avail - doff.toNat) { s with
    results := { s.results with
      tcpSport := s.memRead2 c
      tcpDport := s.memRead2 (c + 2)
      tcpSeq   := s.memRead4 (c + 4)
      tcpAck   := s.memRead4 (c + 8)
      tcpDoff  := doff
      tcpFlags := tcpFlagsOf s.tcpWord } }

/-- TCP_PARSE (42_transport.md R185), its checks in the order of R187. -/
def execTcpParse (s : State) : Res :=
  if s.lacks Config.tcpPrefixLen then .next (s.abort .truncatedInput .tcp)
  else if nibbleTooSmall (dataOffsetOf s.tcpWord) then .next (s.abort .badHeaderLength .tcp)
  else if s.lacks (lenBytes (dataOffsetOf s.tcpWord)).toNat then .next (s.abort .truncatedInput .tcp)
  else .next (tcpAccept s)

/-- UDP_PARSE (42_transport.md R190, R191; layout 30_encoding.md R106); the declared length is not enforced (R192). -/
def execUdpParse (s : State) : Res :=
  let c := s.cursor.toNat
  if s.lacks Config.udpHdrLen then .next (s.abort .truncatedInput .udp)
  else .next (State.finish .udp (c + Config.udpHdrLen) (s.avail - Config.udpHdrLen) { s with
    results := { s.results with
      udpSport := s.memRead2 c
      udpDport := s.memRead2 (c + 2)
      udpLen   := s.memRead2 (c + 4) } })

/-- TRN_UNRECOGNIZED (42_transport.md R194). -/
def execTrnUnrecognized (s : State) : Res :=
  .next (s.finish .ipv4Unrecognized s.cursor.toNat s.avail)

end Sys2Proof.Machine
end

