-- ==== Sys2Proof/Machine/Dispatch.lean ====
section
/-! DEFINITION. The dispatch from an operation to its meaning, one arm per row of spec/opcode_table.json. -/

namespace Sys2Proof.Machine

def exec (i : Instr) (s : State) : Host.Outcome State Fault Refusal :=
  match i with
  | .ethParse => Sys2Proof.Machine.execEthParse s
  | .ipv4Parse => Sys2Proof.Machine.execIpv4Parse s
  | .netUnrecognized _ => Sys2Proof.Machine.execNetUnrecognized s
  | .icmpParse => Sys2Proof.Machine.execIcmpParse s
  | .tcpParse => Sys2Proof.Machine.execTcpParse s
  | .udpParse => Sys2Proof.Machine.execUdpParse s
  | .trnUnrecognized _ => Sys2Proof.Machine.execTrnUnrecognized s
  | .hostStart _ => Sys2Proof.Machine.execHostStart s
  | .hostWriteFb a v => Sys2Proof.Machine.execHostWriteFb a v s
  | .hostWriteFrameLen data => Sys2Proof.Machine.execHostWriteFrameLen data s
  | .hostReadReg offset => Sys2Proof.Machine.execHostReadReg offset s
  | .hostReadFb a => Sys2Proof.Machine.execHostReadFb a s
  | .hostWriteIgnored access => Sys2Proof.Machine.execHostWriteIgnored access s

end Sys2Proof.Machine
end

