-- ==== Sys2Proof/Machine/Events.lean ====
section
/-! DEFINITION. The atomic events of an FP instance: an engine step (43_dissector.md R213), a host operation (R217 to R222),
the reset input and power-up (70_reset_and_hazards.md R290, R291). -/

namespace Sys2Proof.Machine

/-- One engine step (43_dissector.md R213). At IDLE and DONE none is enabled and nothing changes (R211, 60_exceptions.md R271). -/
def engineStep (s : State) : Res :=
  match s.engineOp with
  | none => .next s
  | some i => exec i s

/-- The effect of one event. -/
def applyEvent (e : Event) (s : State) : Res :=
  match e with
  | .engine => engineStep s
  | .bus access => exec (decodeAccess access) s
  | .reset => .next s.resetBlock
  | .powerUp => .next s.powerUpBlock

/-- A sequence of events, one after another (20_memory.md R87). -/
def runEvents : List Event → State → Res
  | [], s => .next s
  | e :: es, s =>
    match applyEvent e s with
    | .next t => runEvents es t
    | .fault r => .fault r
    | .refused r => .refused r

end Sys2Proof.Machine
end

