-- ==== Sys2Proof/Machine/Fetch.lean ====
section
/-! DEFINITION. Making the next step run a given operation: the engine's selector is set through STAGE and the register its code
comes from (30_encoding.md R116), a host access is put at the head of the schedule. -/

namespace Sys2Proof.Machine

/-- The IP_PROTO that makes the engine select the same row for a code of stage TRN. Codes from 0x0100 on never occur there and
would select TRN_UNRECOGNIZED (30_encoding.md R119), as protocol 0xFF does. -/
def protoOfCode (code : Half) : Byte :=
  if code.toNat < 0x100 then code.setWidth 8 else 0xFF#8

/-- The state whose next engine step has this selector, and whose next event is that step. -/
def State.placeSelector (sel : BitVec 19) (s : State) : State :=
  if selectorStage sel = 1#3 then { s with stage := .eth, schedule := .engine :: s.schedule }
  else if selectorStage sel = 2#3 then
    { s with
      stage := .net
      results := { s.results with ethType := selectorCode sel }
      schedule := .engine :: s.schedule }
  else if selectorStage sel = 3#3 then
    { s with
      stage := .trn
      results := { s.results with ipProto := protoOfCode (selectorCode sel) }
      schedule := .engine :: s.schedule }
  else s

/-- The state whose next event is what was fetched. -/
def State.place (f : Fetched) (s : State) : State :=
  match f with
  | .selector sel => s.placeSelector sel
  | .access a => { s with schedule := .bus a :: s.schedule }

end Sys2Proof.Machine
end

