-- ==== Sys2Proof/Machine/Step.lean ====
section
/-! DEFINITION. One step of the machine: the next event of the schedule. When the host has nothing to come, the engine runs
(its weak fairness, 43_dissector.md R214), and at IDLE and DONE nothing changes (60_exceptions.md R271). -/

namespace Sys2Proof.Machine

/-- One step (log 3). -/
def step (s : State) : Host.Outcome State Fault Refusal :=
  match s.schedule with
  | [] => engineStep s
  | e :: rest => applyEvent e { s with schedule := rest }

/-- The state whose next step runs the operation of a table word (log 2, log 3). -/
def State.withFetchWord (s : State) (nbits w : Nat) : State :=
  match readWord (wordOfTable nbits w) with
  | .ok f => s.place f
  | .error _ => s

end Sys2Proof.Machine
end

