-- ==== Sys2Proof/Machine/Frames.lean ====
section
/-! DEFINITION. The spec's notation for frames and host programs (30_encoding.md R122 to R124): header bytes, and the events a
host program stands for. -/

namespace Sys2Proof.Machine

/-! ## Bytes of a value, most significant first -/

def bytes2 (v : Half) : List Byte := [v.extractLsb' 8 8, v.extractLsb' 0 8]

def bytes4 (v : Word) : List Byte :=
  [v.extractLsb' 24 8, v.extractLsb' 16 8, v.extractLsb' 8 8, v.extractLsb' 0 8]

def bytes6 (v : Mac) : List Byte :=
  [v.extractLsb' 40 8, v.extractLsb' 32 8, v.extractLsb' 24 8, v.extractLsb' 16 8, v.extractLsb' 8 8, v.extractLsb' 0 8]

/-- `bytes`, with 0x00 bytes added up to a length. DESIGN CHOICE (log 21): where `bytes` is longer they stand uncut, and a length
that the spec's difference makes negative (IHL below 5, data offset below 4) counts as 0. -/
def padTo (n : Nat) (bytes : List Byte) : List Byte := bytes ++ List.replicate (n - bytes.length) 0#8

/-! ## Header pseudo-instructions (R123) -/

/-- `ETH dst=M, src=M, type=T`. -/
def ethHeader (dst src : Mac) (etherType : Half) : List Byte := bytes6 dst ++ bytes6 src ++ bytes2 etherType

/-- `IPV4 ver=V, ihl=I, ttl=L, proto=P, src=A, dst=B, opt=bytes`. -/
def ipv4Header (ver ihl : BitVec 4) (ttl proto : Byte) (src dst : Word) (opt : List Byte) : List Byte :=
  [ver ++ ihl] ++ List.replicate 7 0#8 ++ [ttl, proto, 0#8, 0#8] ++ bytes4 src ++ bytes4 dst
    ++ padTo (4 * ihl.toNat - 20) opt

/-- `ICMP type=T, code=C, csum=S`. -/
def icmpHeader (type code : Byte) (csum : Half) : List Byte := [type, code] ++ bytes2 csum

/-- `TCP sport=S, dport=D, seq=Q, ack=K, doff=N, flags=F, rest=bytes`. -/
def tcpHeader (sport dport : Half) (seq ack : Word) (doff : BitVec 4) (flags : BitVec 12) (rest : List Byte) : List Byte :=
  bytes2 sport ++ bytes2 dport ++ bytes4 seq ++ bytes4 ack ++ bytes2 (doff ++ flags) ++ padTo (4 * doff.toNat - 14) rest

/-- `UDP sport=S, dport=D, len=L, csum=C`. -/
def udpHeader (sport dport len csum : Half) : List Byte := bytes2 sport ++ bytes2 dport ++ bytes2 len ++ bytes2 csum

/-! ## Host program notation (R124) -/

/-- A statement of a host program or schedule. -/
inductive HostStmt where
  | fb (a : Half) (bytes : List Byte)
  | wr (reg : HostReg) (v : Word)
  | rd (reg : HostReg)
  | start
  | rdfb (a : Half)
  | wait
  | bus (access : BusAccess)
  | step
  | reset
  deriving DecidableEq, Repr

/-- Byte writes at an offset and the offsets after it. DEDUCED (log 19): a run that goes past the FB window goes on at the next bus
offsets, as the bus column of R124 says, and 20_memory.md R82 ignores those writes. -/
def fbWrites (offset : Word) : List Byte → List Event
  | [] => []
  | v :: bytes => .bus ⟨.write (v.setWidth 32), 8#8, offset⟩ :: fbWrites (offset + 1) bytes

/-- A 32-bit write to a named register. -/
def writeReg (reg : HostReg) (v : Word) : Event := .bus ⟨.write v, 32#8, reg.offset.setWidth 32⟩

/-- A 32-bit read of a named register. -/
def readRegEvent (reg : HostReg) : Event := .bus ⟨.read, 32#8, reg.offset.setWidth 32⟩

/-- The events of a statement. `WAIT` stands for one interleaving R214 allows: three engine steps, which end any dissection
(43_dissector.md R215), each followed by a read of STATUS (log 6). -/
def HostStmt.events : HostStmt → List Event
  | .fb a bytes => fbWrites (fbOffset a) bytes
  | .wr reg v => [writeReg reg v]
  | .rd reg => [readRegEvent reg]
  | .start => [writeReg .ctrl 1]
  | .rdfb a => [.bus ⟨.read, 8#8, fbOffset a⟩]
  | .wait => [.engine, readRegEvent .status, .engine, readRegEvent .status, .engine, readRegEvent .status]
  | .bus access => [.bus access]
  | .step => [.engine]
  | .reset => [.reset]

/-- The events of a host program. -/
def programEvents : List HostStmt → List Event
  | [] => []
  | stmt :: rest => stmt.events ++ programEvents rest

end Sys2Proof.Machine
end

