-- ==== Sys2Proof/Machine/Render.lean ====
section
/-! DEFINITION. The host-side renderings of 44_host_rendering.md, as pure functions of register values and frame bytes. They are
no hardware (R7, R240 to R243), and no rule of the block depends on them. Text is a list of characters. -/

namespace Sys2Proof.Machine

/-- A hexadecimal digit, `0` to `9` and then `A` to `F` or `a` to `f`. -/
def hexDigit (upper : Bool) (n : BitVec 4) : Char :=
  if n.toNat < 10 then Char.ofNat (48 + n.toNat)
  else if upper then Char.ofNat (55 + n.toNat)
  else Char.ofNat (87 + n.toNat)

/-- `H(b)`: two digits, high nibble first (R240). -/
def hexByte (upper : Bool) (b : Byte) : List Char :=
  [hexDigit upper (b.extractLsb' 4 4), hexDigit upper (b.extractLsb' 0 4)]

/-- Pieces of text with a separator between them. -/
def joinText (sep : List Char) : List (List Char) → List Char
  | [] => []
  | [t] => t
  | t :: u :: rest => t ++ sep ++ joinText sep (u :: rest)

/-- `RenderMAC` (R240). -/
def renderMac (m : Mac) : List Char :=
  joinText [':'] [ hexByte true (m.extractLsb' 40 8), hexByte true (m.extractLsb' 32 8), hexByte true (m.extractLsb' 24 8),
    hexByte true (m.extractLsb' 16 8), hexByte true (m.extractLsb' 8 8), hexByte true (m.extractLsb' 0 8) ]

/-- A decimal digit. -/
def decDigit (n : Nat) : Char := Char.ofNat (48 + n % 10)

/-- `D(b)`: the decimal numeral without leading zeros (R241). -/
def decByte (b : Byte) : List Char :=
  if b.toNat < 10 then [decDigit b.toNat]
  else if b.toNat < 100 then [decDigit (b.toNat / 10), decDigit b.toNat]
  else [decDigit (b.toNat / 100), decDigit (b.toNat / 10), decDigit b.toNat]

/-- `RenderIPv4` (R241). -/
def renderIpv4 (a : Word) : List Char :=
  joinText ['.'] [ decByte (a.extractLsb' 24 8), decByte (a.extractLsb' 16 8), decByte (a.extractLsb' 8 8),
    decByte (a.extractLsb' 0 8) ]

/-- The columns a hex dump wraps at (R242). -/
def dumpColumns : Nat := 80

/-- One byte of a dump in the open format of R242. -/
def hexCell (fmt : HexFormat) (b : Byte) : List Char := fmt.before ++ hexByte fmt.upperCase b ++ fmt.after

/-- The bodies of the lines: each is filled with whole bytes as far as `room` characters hold them (log 9). -/
def dumpBodies (fmt : HexFormat) (room : Nat) : List Char → List Byte → List (List Char)
  | line, [] => [line]
  | line, b :: bytes =>
    if line.length + (fmt.separator ++ hexCell fmt b).length ≤ room then
      dumpBodies fmt room (line ++ fmt.separator ++ hexCell fmt b) bytes
    else line :: dumpBodies fmt room (hexCell fmt b) bytes

/-- The hex dump of a run of bytes under a caller's label (R242): each line is the label and at most `80 − length(label)` further
characters, and no line break parts the digits of a byte. An empty run, and a label that leaves less than one byte's width,
are open. DESIGN CHOICE (log 9): the width of one byte is that of its whole cell, HEXDUMP_BYTE_FORMAT's characters included. -/
def hexDump (fmt : HexFormat) (label : List Char) (bytes : List Byte) : List (List Char) :=
  match bytes with
  | [] => Config.hexdumpEmpty label
  | b :: rest =>
    if label.length + (hexCell fmt b).length ≤ dumpColumns then
      (dumpBodies fmt (dumpColumns - label.length) (hexCell fmt b) rest).map (fun body => label ++ body)
    else Config.hexdumpNarrow label bytes

/-- The bytes `FB[a .. a + n − 1]`. -/
def State.fbRun (s : State) : Nat → Nat → List Byte
  | _, 0 => []
  | a, n + 1 => s.fbByte a :: State.fbRun s (a + 1) n

/-- The residual a result describes (10_state.md R48, 43_dissector.md R227). -/
def State.residual (s : State) : List Byte := s.fbRun s.results.payloadOff.toNat s.results.payloadLen.toNat

/-- The dump a system prints of the residual. -/
def State.dumpResidual (s : State) (label : List Char) : List (List Char) := hexDump Config.hexdump label s.residual

end Sys2Proof.Machine
end

