-- ==== Sys2Proof/Machine/System.lean ====
section
/-! DEFINITION. A system of FP instances on one host bus (10_state.md R31, 60_exceptions.md R269): each instance has its window at
its own FP_BASE (20_memory.md R85), and they share no state. -/

namespace Sys2Proof.Machine

/-- The instances of a system, by number. -/
structure System where
  blocks : List State
  deriving DecidableEq, Repr

/-- N_INSTANCES (00_scope.md R8), OPEN: the argument that a system's list of blocks stands for (log 8). -/
def System.nInstances (sys : System) : Nat := sys.blocks.length

/-- There is at least one instance (R8), and each is identified by its FP_BASE (R269): no two have one window. -/
def System.wf (sys : System) : Prop := 1 ≤ sys.nInstances ∧ (sys.blocks.map State.fpWindow).Nodup

/-- FP_BASE of an instance (20_memory.md R85). -/
def State.fpBase (s : State) : Word := Config.fpBase s.fpWindow

/-- The offset of a bus address in an instance's window, as the bus subtracts FP_BASE (20_memory.md R85). -/
def State.offsetOf (s : State) (address : Word) : Word := address - s.fpBase

/-- The address lies in the instance's window `[FP_BASE, FP_BASE + 0x20000)` (R85). -/
def State.inWindow (s : State) (address : Word) : Bool := decide ((s.offsetOf address).toNat < 0x20000)

/-- The block after a transaction was put on the bus: last in its schedule if the address is in its window, else as it was.
DESIGN CHOICE (log 20): a transaction at an address in no instance's window is no event of any block, so no block answers it. -/
def State.posted (dir : Direction) (width : Byte) (address : Word) (s : State) : State :=
  if s.inWindow address then { s with schedule := s.schedule ++ [.bus ⟨dir, width, s.offsetOf address⟩] } else s

/-- One step of one instance; the others stand still (R31, R269). -/
def System.stepAt (k : Nat) (sys : System) : Host.Outcome System Fault Refusal :=
  match sys.blocks[k]? with
  | none => .next sys
  | some s =>
    match step s with
    | .next t => .next ⟨sys.blocks.set k t⟩
    | .fault r => .fault r
    | .refused r => .refused r

/-- The host's transaction at a bus address, which the instance whose window holds the address will see (R85). -/
def System.post (dir : Direction) (width : Byte) (address : Word) (sys : System) : System :=
  ⟨sys.blocks.map (State.posted dir width address)⟩

/-- A 32-bit host word on the bus's byte lanes, lane 0 first (20_memory.md R80); no rule of the block depends on the order. -/
def busLanes (order : Endian) (v : Word) : List Byte :=
  match order with
  | .little => [v.extractLsb' 0 8, v.extractLsb' 8 8, v.extractLsb' 16 8, v.extractLsb' 24 8]
  | .big => [v.extractLsb' 24 8, v.extractLsb' 16 8, v.extractLsb' 8 8, v.extractLsb' 0 8]

/-- The lanes of the host bus of this system. -/
def hostLanes (v : Word) : List Byte := busLanes Config.hostBusEndian v

end Sys2Proof.Machine
end

