-- ==== Sys2Proof/Safety.lean ====
section
/-! DEFINITION. The terms claims are stated in: the invariants of 10_state.md R51, which states hold the same frame and the same
result, and which events are which. -/

namespace Sys2Proof.Machine

/-! ## Parts of the register file -/

/-- Every IPv4 result register is 0. -/
def Results.ipv4Clear (r : Results) : Prop :=
  r.ipVersion = 0 ∧ r.ipHlen = 0 ∧ r.ipTtl = 0 ∧ r.ipProto = 0 ∧ r.ipSrc = 0 ∧ r.ipDst = 0

/-- Every ICMP result register is 0. -/
def Results.icmpClear (r : Results) : Prop := r.icmpType = 0 ∧ r.icmpCode = 0 ∧ r.icmpCsum = 0

/-- Every TCP result register is 0. -/
def Results.tcpClear (r : Results) : Prop :=
  r.tcpSport = 0 ∧ r.tcpDport = 0 ∧ r.tcpSeq = 0 ∧ r.tcpAck = 0 ∧ r.tcpDoff = 0 ∧ r.tcpFlags = 0

/-- Every UDP result register is 0. -/
def Results.udpClear (r : Results) : Prop := r.udpSport = 0 ∧ r.udpDport = 0 ∧ r.udpLen = 0

/-- Both payload registers are 0. -/
def Results.payloadClear (r : Results) : Prop := r.payloadOff = 0 ∧ r.payloadLen = 0

/-- What no link-layer or network-layer operation writes is 0. -/
def Results.transportClear (r : Results) : Prop := r.icmpClear ∧ r.tcpClear ∧ r.udpClear ∧ r.payloadClear

/-! ## Invariants -/

/-- CURSOR is where the layers so far ended: 14, plus a legal IPv4 header length (10_state.md R35). -/
def State.pastIpv4 (s : State) : Prop :=
  s.results.ethType = Config.etherTypeIpv4 ∧ 20 ≤ s.results.ipHlen.toNat
    ∧ s.cursor.toNat = 14 + s.results.ipHlen.toNat

/-- What holds in every reachable state: the clauses (a), (b), (c) and the first half of (e) of 10_state.md R51, the canonical
memory, and where each stage stands. -/
structure State.Inv (s : State) : Prop where
  memory   : Memory.wf s.fb = true
  outcome  : s.outcome = .none ↔ s.stage ≠ .done
  errKind  : s.errKind ≠ .none ↔ s.outcome = .failed
  errLayer : s.errLayer ≠ .none ↔ s.outcome = .failed
  failed   : s.outcome = .failed → s.results = Results.zero ∧ s.vmismatch = false
  cursor   : s.busy = true → s.cursor.toNat ≤ s.frameLen.toNat
  atIdle   : s.stage = .idle → s.cursor = 0 ∧ s.results = Results.zero ∧ s.vmismatch = false
  atEth    : s.stage = .eth → s.cursor = 0 ∧ s.results = Results.zero ∧ s.vmismatch = false
  atNet    : s.stage = .net → s.cursor = 14 ∧ s.results.ipv4Clear ∧ s.results.transportClear ∧ s.vmismatch = false
  atTrn    : s.stage = .trn → s.pastIpv4 ∧ s.results.transportClear

/-- The clause (d) and the second half of (e) of R51: a successful result's residual runs to the end of the frame, and CURSOR
lies in the frame. A FRAME_LEN write at DONE may break it until the next START (43_dissector.md R219). -/
def State.ResultFitsFrame (s : State) : Prop :=
  s.outcome.payloadValid = true →
    s.results.payloadOff.toNat + s.results.payloadLen.toNat = s.frameLen.toNat ∧ s.cursor.toNat ≤ s.frameLen.toNat

/-- The result of a dissection is the tagged tree of 43_dissector.md R227: headers an outcome does not name are 0. -/
structure State.TaggedTree (s : State) : Prop where
  ethOnly          : s.outcome = .ethOnly → s.results.ipv4Clear ∧ s.results.icmpClear ∧ s.results.tcpClear
                       ∧ s.results.udpClear ∧ s.vmismatch = false ∧ s.results.ethType ≠ Config.etherTypeIpv4
  ipv4Unrecognized : s.outcome = .ipv4Unrecognized → s.pastIpv4 ∧ s.results.icmpClear ∧ s.results.tcpClear
                       ∧ s.results.udpClear ∧ s.results.ipProto ∉ [1#8, 6#8, 17#8]
  icmp             : s.outcome = .icmp → s.pastIpv4 ∧ s.results.tcpClear ∧ s.results.udpClear ∧ s.results.ipProto = 1
  tcp              : s.outcome = .tcp → s.pastIpv4 ∧ s.results.icmpClear ∧ s.results.udpClear ∧ s.results.ipProto = 6
                       ∧ 20 ≤ s.results.tcpDoff.toNat
  udp              : s.outcome = .udp → s.pastIpv4 ∧ s.results.icmpClear ∧ s.results.tcpClear ∧ s.results.ipProto = 17

/-! ## Events -/

/-- A START, reset or power-up: what ends a finished result (20_memory.md R89, 70_reset_and_hazards.md R291). -/
def Event.endsResult (e : Event) : Prop :=
  e = .reset ∨ e = .powerUp ∨ ∃ access data, e = .bus access ∧ decodeAccess access = .hostStart data

/-- Reads and engine steps: the events that change neither the frame nor a finished result (43_dissector.md R225). -/
def Event.harmless : Event → Bool
  | .engine => true
  | .bus access =>
    match access.dir with
    | .read => true
    | .write _ => false
  | .reset => false
  | .powerUp => false

/-- Engine steps and host operations: every event but reset and power-up. -/
def Event.running : Event → Bool
  | .engine => true
  | .bus _ => true
  | .reset => false
  | .powerUp => false

/-- How many engine steps a sequence holds. -/
def engineSteps : List Event → Nat
  | [] => 0
  | .engine :: es => engineSteps es + 1
  | .bus _ :: es => engineSteps es
  | .reset :: es => engineSteps es
  | .powerUp :: es => engineSteps es

/-- A FRAME_LEN write, accepted or dropped (43_dissector.md R219). -/
def Event.writesFrameLen : Event → Bool
  | .engine => false
  | .bus access =>
    match access.dir with
    | .read => false
    | .write _ => access.width == 32#8 && access.offset == 0x8#32
  | .reset => false
  | .powerUp => false

/-! ## Sameness -/

/-- Two states hold the same frame: FRAME_LEN and the bytes `[0, FRAME_LEN)` (43_dissector.md R225). -/
def SameFrame (s t : State) : Prop :=
  s.frameLen = t.frameLen ∧ ∀ a, a < s.frameLen.toNat → s.fbByte a = t.fbByte a

/-- Two states show the same result: STAGE, STATUS, every result register and CURSOR (R225). -/
def SameResult (s t : State) : Prop :=
  s.stage = t.stage ∧ s.statusWord = t.statusWord ∧ s.results = t.results ∧ s.cursor = t.cursor

/-- Two states agree on every register of the block: all of R32 but FB. -/
def SameRegisters (s t : State) : Prop :=
  s.frameLen = t.frameLen ∧ s.stage = t.stage ∧ s.cursor = t.cursor ∧ s.outcome = t.outcome ∧ s.errKind = t.errKind
    ∧ s.errLayer = t.errLayer ∧ s.vmismatch = t.vmismatch ∧ s.results = t.results

/-- Two states agree on every byte of FB. -/
def SameBuffer (s t : State) : Prop := ∀ a, a < Config.fbSize → s.fbByte a = t.fbByte a

/-- The model's own fields are the same: schedule, read data, power-up count and bus window. -/
def SameEnvironment (s t : State) : Prop :=
  s.schedule = t.schedule ∧ s.readData = t.readData ∧ s.powerUps = t.powerUps ∧ s.fpWindow = t.fpWindow

/-! ## Header nibbles as numbers -/

/-- Low nibble of the byte at CURSOR: the IHL of an IPv4 header (30_encoding.md R108). -/
def State.ihl (s : State) : Nat := (s.fbByte s.cursor.toNat).toNat % 16

/-- High nibble of the byte at CURSOR: the version of an IPv4 header (R108). -/
def State.version (s : State) : Nat := (s.fbByte s.cursor.toNat).toNat / 16

/-- High nibble of the byte 12 after CURSOR: the data offset of a TCP header (30_encoding.md R110). -/
def State.dataOffset (s : State) : Nat := (s.fbByte (s.cursor.toNat + 12)).toNat / 16

/-! ## Operations -/

/-- An operation the engine dispatches to (30_encoding.md R117). -/
def isEngineOp : Instr → Bool
  | .ethParse => true
  | .ipv4Parse => true
  | .netUnrecognized _ => true
  | .icmpParse => true
  | .tcpParse => true
  | .udpParse => true
  | .trnUnrecognized _ => true
  | .hostStart _ => false
  | .hostWriteFb _ _ => false
  | .hostWriteFrameLen _ => false
  | .hostReadReg _ => false
  | .hostReadFb _ => false
  | .hostWriteIgnored _ => false

/-- An engine operation of stage TRN. -/
def isTransportOp : Instr → Bool
  | .ethParse => false
  | .ipv4Parse => false
  | .netUnrecognized _ => false
  | .icmpParse => true
  | .tcpParse => true
  | .udpParse => true
  | .trnUnrecognized _ => true
  | .hostStart _ => false
  | .hostWriteFb _ _ => false
  | .hostWriteFrameLen _ => false
  | .hostReadReg _ => false
  | .hostReadFb _ => false
  | .hostWriteIgnored _ => false

end Sys2Proof.Machine
end

