-- ==== Sys2Proof/Certificates/Slice0/Obligations.lean ====
section
/-! DEFINITION. The statements about the frame parser. Each docstring names the rule of spec/ it formalises. -/

open Sys2Proof Sys2Proof.Machine

/-! ## Encoding and dispatch -/

/-- Every well-formed operation is read back from its own bytes, whatever follows them. The 80-bit layout is the model's choice
(log 2); the bits in it are those of 30_encoding.md R117 and R124. -/
def Obligations.DecodeEncodeRoundTrip : Prop :=
  ∀ (i : Instr) (rest : List Byte), i.wf = true → decode (encode i ++ rest) = .ok (i, rest)

/-- A selector of a stage with engine steps is rebuilt by encoding what it decodes to, except that the code of stage ETH is
ignored and comes back 0 (30_encoding.md R116, R117, R119). -/
def Obligations.SelectorEncodesBack : Prop :=
  ∀ (stage : BitVec 3) (code : Half) (i : Instr), decodeSelector (stage ++ code) = some i →
    encodeWord i = tableWord (stage ++ if stage = 1#3 then 0#16 else code)

/-- 30_encoding.md R117: at ETH, NET and TRN every code has one operation, the first row that matches; at no other stage has a code
an operation. -/
def Obligations.DispatchTableSelects : Prop :=
  ∀ code : Half,
    decodeSelector (1#3 ++ code) = some .ethParse ∧
    decodeSelector (2#3 ++ code) = (if code = 0x0800#16 then some .ipv4Parse else some (.netUnrecognized code)) ∧
    decodeSelector (3#3 ++ code) =
      (if code = 1#16 then some .icmpParse
       else if code = 6#16 then some .tcpParse
       else if code = 17#16 then some .udpParse
       else some (.trnUnrecognized code)) ∧
    ∀ stage : BitVec 3, stage ≠ 1#3 → stage ≠ 2#3 → stage ≠ 3#3 → decodeSelector (stage ++ code) = none

/-- 30_encoding.md R116: the selector the engine forms at each stage, in numbers. -/
def Obligations.SelectorFormed : Prop :=
  ∀ s : State,
    (s.stage = .eth → s.selector = some 0x10000#19) ∧
    (s.stage = .net → ∃ sel, s.selector = some sel ∧ sel.toNat = 0x20000 + s.results.ethType.toNat) ∧
    (s.stage = .trn → ∃ sel, s.selector = some sel ∧ sel.toNat = 0x30000 + s.results.ipProto.toNat) ∧
    (s.stage = .idle ∨ s.stage = .done → s.selector = none)

/-- Words written out from 30_encoding.md R117 and 43_dissector.md R217 to R221, in the model's layout (log 2): least
significant byte first, then form, width and data. -/
def Obligations.WrittenWordsDecode : Prop :=
  decode [0x00, 0x00, 0x01, 0x00, 0, 0, 0, 0, 0, 0] = .ok (.ethParse, []) ∧
  decode [0x00, 0x08, 0x02, 0x00, 0, 0, 0, 0, 0, 0] = .ok (.ipv4Parse, []) ∧
  decode [0x06, 0x08, 0x02, 0x00, 0, 0, 0, 0, 0, 0] = .ok (.netUnrecognized 0x0806, []) ∧
  decode [0x06, 0x00, 0x03, 0x00, 0, 0, 0, 0, 0, 0] = .ok (.tcpParse, []) ∧
  decode [0x00, 0x00, 0x00, 0x00, 2, 32, 0x01, 0, 0, 0] = .ok (.hostStart 1, []) ∧
  decode [0x05, 0x00, 0x01, 0x00, 2, 8, 0xAA, 0, 0, 0] = .ok (.hostWriteFb 5 0xAA, []) ∧
  decode [0x04, 0x00, 0x00, 0x00, 1, 32, 0, 0, 0, 0] = .ok (.hostReadReg 4, [])

/-- 20_memory.md R82: an access that is neither an aligned 32-bit access of a register offset nor an 8-bit access of the FB
window has no effect, and returns 0 if it is a read. -/
def Obligations.OtherAccessesAreIgnored : Prop :=
  ∀ (a : BusAccess) (s : State),
    ¬ (a.width = 32#8 ∧ a.offset.toNat < 0x10000 ∧ a.offset.toNat % 4 = 0) →
    ¬ (a.width = 8#8 ∧ 0x10000 ≤ a.offset.toNat ∧ a.offset.toNat ≤ 0x1FFFE) →
    (a.dir = .read → exec (decodeAccess a) s = .next { s with readData := 0 }) ∧
    (a.dir ≠ .read → exec (decodeAccess a) s = .next s)

/-! ## A step runs the decoded operation -/

/-- When the host's next transaction is an access, the step takes it off the schedule and runs the operation it decodes to
(20_memory.md R87; the schedule is the model's, log 3). -/
def Obligations.StepRunsHostOperation : Prop :=
  ∀ (s : State) (a : BusAccess) (rest : List Event), s.schedule = .bus a :: rest →
    step s = exec (decodeAccess a) { s with schedule := rest }

/-- 43_dissector.md R213: an engine step forms the selector and runs the operation of the first matching row. It comes when the
schedule says so, or when nothing is scheduled (log 3). -/
def Obligations.StepRunsSelectedOperation : Prop :=
  ∀ (s : State) (sel : BitVec 19) (i : Instr), s.selector = some sel → decodeSelector sel = some i →
    (s.schedule = [] → step s = exec i s) ∧
    (∀ rest, s.schedule = .engine :: rest → step s = exec i { s with schedule := rest })

/-- A state made to run a table word runs the operation the decoder reads from that word, and its schedule goes on after it
(the placing is the model's, logs 2 and 3). -/
def Obligations.FetchedWordRuns : Prop :=
  ∀ (s : State) (nbits w : Nat) (i : Instr), decodeTableWord nbits w = some i →
    step (s.withFetchWord nbits w) = exec i { s.withFetchWord nbits w with schedule := s.schedule }

/-- Every step answers a next state: the block's step is total on every FB content, every FRAME_LEN and every access
(60_exceptions.md R263). -/
def Obligations.StepAlwaysAnswersNext : Prop :=
  ∀ s : State, ∃ t, step s = .next t

/-- 43_dissector.md R211: an engine step is enabled exactly at ETH, NET and TRN, where STATUS is BUSY; at IDLE and DONE an engine step
changes nothing. -/
def Obligations.QuiescentEngineStands : Prop :=
  ∀ s : State, (s.stage = .idle ∨ s.stage = .done ↔ applyEvent .engine s = .next s ∧ s.busy = false) ∧
    (s.busy = true ↔ s.stage = .eth ∨ s.stage = .net ∨ s.stage = .trn) ∧
    (s.busy = true ↔ ∃ i, s.engineOp = some i)

/-! ## Link layer -/

/-- 40_ethernet.md R140 and R142: dispatch row 1 is ETH_PARSE; with 14 bytes left it writes the three fields, moves CURSOR 14 on
and the engine to NET, and changes nothing else; with fewer it raises TruncatedInput tagged ETH. -/
def Obligations.EthParseDecodesHeader : Prop :=
  ∀ (s : State) (c avail : Nat), c = s.cursor.toNat → c + avail = s.frameLen.toNat →
    (∀ code : Half, decodeSelector (1#3 ++ code) = some .ethParse) ∧
    (14 ≤ avail → ∃ t, exec .ethParse s = .next t ∧
      t = { s with
        results := { s.results with
          ethDst := s.fbByte c ++ s.fbByte (c + 1) ++ s.fbByte (c + 2) ++ s.fbByte (c + 3) ++ s.fbByte (c + 4) ++ s.fbByte (c + 5)
          ethSrc := s.fbByte (c + 6) ++ s.fbByte (c + 7) ++ s.fbByte (c + 8) ++ s.fbByte (c + 9) ++ s.fbByte (c + 10)
            ++ s.fbByte (c + 11)
          ethType := s.fbByte (c + 12) ++ s.fbByte (c + 13) }
        cursor := BitVec.ofNat 16 (c + 14)
        stage := .net } ∧
      t.cursor.toNat = c + 14 ∧ t.avail = avail - 14 ∧ (c = 0 → t.cursor = 14 ∧ t.avail = s.frameLen.toNat - 14)) ∧
    (avail < 14 → exec .ethParse s = .next (s.abort .truncatedInput .eth))

/-- 40_ethernet.md R141: at CURSOR 0, ETH_PARSE fails with TruncatedInput tagged ETH exactly when FRAME_LEN is below 14. -/
def Obligations.EthParseFailsBelowFourteen : Prop :=
  ∀ s : State, s.cursor = 0 →
    (exec .ethParse s = .next (s.abort .truncatedInput .eth) ↔ s.frameLen.toNat < 14)

/-- 40_ethernet.md R145: every ether_type but 0x0800 selects NET_UNRECOGNIZED, which ends the dissection at the link layer with the
residual from CURSOR to FRAME_LEN; nothing else changes. Of STATUS it sets DONE, ETH_VALID and PAYLOAD_VALID. -/
def Obligations.NetUnrecognizedFinishes : Prop :=
  ∀ (s : State) (code : Half), s.cursor.toNat ≤ s.frameLen.toNat →
    (code ≠ 0x0800#16 → decodeSelector (2#3 ++ code) = some (.netUnrecognized code)) ∧
    ∃ t, exec (.netUnrecognized code) s = .next t ∧
      t = { s with
        outcome := .ethOnly
        results := { s.results with
          payloadOff := s.cursor
          payloadLen := BitVec.ofNat 16 (s.frameLen.toNat - s.cursor.toNat) }
        stage := .done } ∧
      (∀ b ∈ [1, 16, 21], t.statusWord.getLsbD b = true) ∧ ∀ b ∈ [0, 2, 17, 18, 19, 20], t.statusWord.getLsbD b = false

/-! ## Network layer -/

/-- 41_ipv4.md R160 and R164: where the declared header fits, the fields of the IPv4 header are written, CURSOR moves over the
header, options and all, and the engine to TRN; nothing else changes, so the residual runs on to FRAME_LEN. -/
def Obligations.Ipv4ParseDecodesHeader : Prop :=
  ∀ (s : State) (c : Nat), c = s.cursor.toNat → 5 ≤ s.ihl → c + 4 * s.ihl ≤ s.frameLen.toNat →
    exec .ipv4Parse s = .next { s with
      vmismatch := decide (s.version ≠ 4)
      results := { s.results with
        ipVersion := BitVec.ofNat 4 s.version
        ipHlen := BitVec.ofNat 6 (4 * s.ihl)
        ipTtl := s.fbByte (c + 8)
        ipProto := s.fbByte (c + 9)
        ipSrc := s.fbByte (c + 12) ++ s.fbByte (c + 13) ++ s.fbByte (c + 14) ++ s.fbByte (c + 15)
        ipDst := s.fbByte (c + 16) ++ s.fbByte (c + 17) ++ s.fbByte (c + 18) ++ s.fbByte (c + 19) }
      cursor := BitVec.ofNat 16 (c + 4 * s.ihl)
      stage := .trn }

/-- 41_ipv4.md R161: the three length checks and their order. -/
def Obligations.Ipv4ChecksInOrder : Prop :=
  ∀ (s : State) (avail : Nat), s.cursor.toNat + avail = s.frameLen.toNat →
    (avail < 20 → exec .ipv4Parse s = .next (s.abort .truncatedInput .ipv4)) ∧
    (20 ≤ avail → s.ihl < 5 → exec .ipv4Parse s = .next (s.abort .badHeaderLength .ipv4)) ∧
    (20 ≤ avail → 5 ≤ s.ihl → avail < 4 * s.ihl → exec .ipv4Parse s = .next (s.abort .truncatedInput .ipv4))

/-- After every IPV4_PARSE that does not abort, IP_HLEN is four times the nibble and lies in 20 to 60, and CURSOR moves by it
(41_ipv4.md R163, which the spec derives from R160 and R161). -/
def Obligations.Ipv4HeaderLengthIsFourNibbles : Prop :=
  ∀ s t : State, s.cursor.toNat ≤ s.frameLen.toNat → exec .ipv4Parse s = .next t → t.stage ≠ .done →
    t.results.ipHlen.toNat = 4 * s.ihl ∧ 20 ≤ t.results.ipHlen.toNat ∧ t.results.ipHlen.toNat ≤ 60 ∧
      t.cursor.toNat = s.cursor.toNat + t.results.ipHlen.toNat ∧ t.avail = s.avail - t.results.ipHlen.toNat

/-- 60_exceptions.md R253: a version other than 4 sets VMISMATCH and changes nothing else, only when IPV4_PARSE does not abort;
START, reset and a later abort clear it. -/
def Obligations.VersionMismatchOnlyWarns : Prop :=
  (∀ s s' t t' : State, SameRegisters s s' → SameEnvironment s s' →
    (∀ a, a ≠ s.cursor.toNat → s.fbByte a = s'.fbByte a) → s.ihl = s'.ihl → s.version = 4 →
    exec .ipv4Parse s = .next t → exec .ipv4Parse s' = .next t' →
    SameRegisters { t with vmismatch := false, results := { t.results with ipVersion := 0 } }
      { t' with vmismatch := false, results := { t'.results with ipVersion := 0 } } ∧
    SameEnvironment t t' ∧
    (t'.stage = .done → t'.vmismatch = false) ∧
    (t'.stage ≠ .done → t'.stage = .trn ∧ t.vmismatch = false ∧ t'.vmismatch = decide (s'.version ≠ 4))) ∧
  (∀ (s t : State) (d : Word), s.busy = false → exec (.hostStart d) s = .next t → t.vmismatch = false) ∧
  (∀ s t : State, applyEvent .reset s = .next t → t.vmismatch = false) ∧
  (∀ (i : Instr) (s t : State), isEngineOp i = true → s.outcome ≠ .failed → exec i s = .next t → t.outcome = .failed →
    t.vmismatch = false)

/-! ## Transport layer -/

/-- 42_transport.md R181 and R182: dispatch row 4 is ICMP_PARSE; with 4 bytes left the three fields are written and the residual
starts after them; with fewer the dissection fails with TruncatedInput tagged ICMP. -/
def Obligations.IcmpParseDecodesHeader : Prop :=
  ∀ (s : State) (c avail : Nat), c = s.cursor.toNat → c + avail = s.frameLen.toNat →
    decodeSelector 0x30001#19 = some .icmpParse ∧
    (4 ≤ avail → ∃ t, exec .icmpParse s = .next t ∧
      t = { s with
        outcome := .icmp
        results := { s.results with
          icmpType := s.fbByte c
          icmpCode := s.fbByte (c + 1)
          icmpCsum := s.fbByte (c + 2) ++ s.fbByte (c + 3)
          payloadOff := BitVec.ofNat 16 (c + 4)
          payloadLen := BitVec.ofNat 16 (avail - 4) }
        stage := .done } ∧
      ∀ b ∈ [1, 16, 17, 18, 21], t.statusWord.getLsbD b = true) ∧
    (avail < 4 → exec .icmpParse s = .next (s.abort .truncatedInput .icmp))

/-- 42_transport.md R185 and R188: where the declared header fits, the fields of the TCP prefix are written, and the residual is
what follows the data offset; nothing between the prefix and the data offset is read. -/
def Obligations.TcpParseDecodesHeader : Prop :=
  ∀ (s : State) (c avail : Nat), c = s.cursor.toNat → c + avail = s.frameLen.toNat →
    5 ≤ s.dataOffset → 4 * s.dataOffset ≤ avail →
    exec .tcpParse s = .next { s with
      outcome := .tcp
      results := { s.results with
        tcpSport := s.fbByte c ++ s.fbByte (c + 1)
        tcpDport := s.fbByte (c + 2) ++ s.fbByte (c + 3)
        tcpSeq := s.fbByte (c + 4) ++ s.fbByte (c + 5) ++ s.fbByte (c + 6) ++ s.fbByte (c + 7)
        tcpAck := s.fbByte (c + 8) ++ s.fbByte (c + 9) ++ s.fbByte (c + 10) ++ s.fbByte (c + 11)
        tcpDoff := BitVec.ofNat 6 (4 * s.dataOffset)
        tcpFlags := (s.fbByte (c + 13)).setWidth 6
        payloadOff := BitVec.ofNat 16 (c + 4 * s.dataOffset)
        payloadLen := BitVec.ofNat 16 (avail - 4 * s.dataOffset) }
      stage := .done }

/-- 42_transport.md R187: the three length checks and their order. -/
def Obligations.TcpChecksInOrder : Prop :=
  ∀ (s : State) (avail : Nat), s.cursor.toNat + avail = s.frameLen.toNat →
    (avail < 14 → exec .tcpParse s = .next (s.abort .truncatedInput .tcp)) ∧
    (14 ≤ avail → s.dataOffset < 5 → exec .tcpParse s = .next (s.abort .badHeaderLength .tcp)) ∧
    (14 ≤ avail → 5 ≤ s.dataOffset → avail < 4 * s.dataOffset → exec .tcpParse s = .next (s.abort .truncatedInput .tcp))

/-- 30_encoding.md R112: each flag of a word is its bit, and flipping bit `i` of the word changes flag `i` and no other for `i`
below 6, and no flag for `i` in 6 to 11. -/
def Obligations.TcpFlagsAreBitTests : Prop :=
  (∀ (w : Half) (j : Nat), j < 6 → (tcpFlagsOf w).getLsbD j = w.getLsbD j) ∧
  (∀ (w : Half) (i j : Nat), i < 12 → j < 6 →
    ((tcpFlagsOf (w ^^^ BitVec.twoPow 16 i)).getLsbD j ≠ (tcpFlagsOf w).getLsbD j ↔ i = j)) ∧
  (∀ s t : State, exec .tcpParse s = .next t → s.outcome ≠ .failed → t.outcome ≠ .failed →
    t.results.tcpFlags = tcpFlagsOf (s.fbByte (s.cursor.toNat + 12) ++ s.fbByte (s.cursor.toNat + 13)))

/-- 42_transport.md R190 and R192: dispatch row 6 is UDP_PARSE; with 8 bytes left the ports and the declared length are written and
the residual starts after the header, whatever the declared length; with fewer the dissection fails with TruncatedInput tagged
UDP. -/
def Obligations.UdpParseDecodesHeader : Prop :=
  ∀ (s : State) (c avail : Nat), c = s.cursor.toNat → c + avail = s.frameLen.toNat →
    decodeSelector 0x30011#19 = some .udpParse ∧
    (8 ≤ avail → ∃ t, exec .udpParse s = .next t ∧
      t = { s with
        outcome := .udp
        results := { s.results with
          udpSport := s.fbByte c ++ s.fbByte (c + 1)
          udpDport := s.fbByte (c + 2) ++ s.fbByte (c + 3)
          udpLen := s.fbByte (c + 4) ++ s.fbByte (c + 5)
          payloadOff := BitVec.ofNat 16 (c + 8)
          payloadLen := BitVec.ofNat 16 (avail - 8) }
        stage := .done } ∧
      ∀ b ∈ [1, 16, 17, 20, 21], t.statusWord.getLsbD b = true) ∧
    (avail < 8 → exec .udpParse s = .next (s.abort .truncatedInput .udp))

/-- 42_transport.md R194: every protocol but 1, 6 and 17 selects TRN_UNRECOGNIZED, which ends the dissection at the network layer
with the residual from CURSOR to FRAME_LEN; nothing else changes. Of STATUS it sets DONE, ETH_VALID, IPV4_VALID and
PAYLOAD_VALID. -/
def Obligations.TrnUnrecognizedFinishes : Prop :=
  ∀ (s : State) (code : Half), s.cursor.toNat ≤ s.frameLen.toNat →
    (code ≠ 1#16 → code ≠ 6#16 → code ≠ 17#16 → decodeSelector (3#3 ++ code) = some (.trnUnrecognized code)) ∧
    ∃ t, exec (.trnUnrecognized code) s = .next t ∧
      t = { s with
        outcome := .ipv4Unrecognized
        results := { s.results with
          payloadOff := s.cursor
          payloadLen := BitVec.ofNat 16 (s.frameLen.toNat - s.cursor.toNat) }
        stage := .done } ∧
      (∀ b ∈ [1, 16, 17, 21], t.statusWord.getLsbD b = true) ∧ ∀ b ∈ [0, 2, 18, 19, 20], t.statusWord.getLsbD b = false

/-- 43_dissector.md R216: whichever operation ends a dissection with success, OUTCOME is one of 1 to 5, the residual runs from
PAYLOAD_OFF to FRAME_LEN, the engine is at DONE, and ERR_KIND, ERR_LAYER, VMISMATCH and CURSOR stay. VMISMATCH is 0 where
IPV4_PARSE did not run. -/
def Obligations.FinishReportsResidual : Prop :=
  (∀ (i : Instr) (s t : State), isEngineOp i = true → s.outcome = .none → s.cursor.toNat ≤ s.frameLen.toNat →
    exec i s = .next t → t.outcome ≠ .none → t.outcome ≠ .failed →
    t.outcome.payloadValid = true ∧ s.cursor.toNat ≤ t.results.payloadOff.toNat ∧
      t.results.payloadOff.toNat + t.results.payloadLen.toNat = t.frameLen.toNat ∧
      t.stage = .done ∧ t.errKind = s.errKind ∧ t.errLayer = s.errLayer ∧ t.vmismatch = s.vmismatch ∧ t.cursor = s.cursor) ∧
  (∀ s t : State, s.Inv → s.busy = true → applyEvent .engine s = .next t → t.outcome ≠ .none → t.outcome ≠ .failed →
    t.errKind = .none ∧ t.errLayer = .none ∧ (t.outcome = .ethOnly → t.vmismatch = false))

/-! ## Errors -/

/-- 60_exceptions.md R256: what an abort writes, what the host then reads, the code of each error kind and layer in numbers, and that an engine operation that fails does nothing
else. -/
def Obligations.AbortIsTheWholeEffect : Prop :=
  (∀ (kind : ErrKind) (layer : ErrLayer) (s : State),
    s.abort kind layer = { s with
      results := Results.zero
      vmismatch := false
      outcome := .failed
      errKind := kind
      errLayer := layer
      stage := .done } ∧
    ∀ o : Half, 0x014 ≤ o.toNat → (s.abort kind layer).readReg o = 0) ∧
  (∀ s : State, (s.abort .truncatedInput .eth).statusWord = 0x00001166#32 ∧
    ∀ kind ∈ [(ErrKind.truncatedInput, 1), (.badHeaderLength, 2)],
      ∀ layer ∈ [(ErrLayer.eth, 1), (.ipv4, 2), (.icmp, 3), (.tcp, 4), (.udp, 5)],
        (s.abort kind.1 layer.1).statusWord.toNat = 0x2 + 0x4 + 6 * 16 + kind.2 * 256 + layer.2 * 4096) ∧
  (∀ (i : Instr) (s t : State), isEngineOp i = true → s.outcome ≠ .failed → exec i s = .next t → t.outcome = .failed →
    ∃ kind layer, kind ≠ .none ∧ layer ≠ .none ∧ t = s.abort kind layer)

/-- 60_exceptions.md R251: the operations and conditions that raise TruncatedInput, with the layer each is tagged with; CURSOR
stays at the start of the failing header. -/
def Obligations.TruncatedInputExactly : Prop :=
  ∀ (i : Instr) (s t : State) (avail : Nat), s.cursor.toNat + avail = s.frameLen.toNat → s.errKind = .none →
    isEngineOp i = true → exec i s = .next t →
    (t.errKind = .truncatedInput ↔
      (i = .ethParse ∧ avail < 14) ∨ (i = .ipv4Parse ∧ avail < 20) ∨
      (i = .ipv4Parse ∧ 5 ≤ s.ihl ∧ avail < 4 * s.ihl) ∨ (i = .icmpParse ∧ avail < 4) ∨
      (i = .tcpParse ∧ avail < 14) ∨ (i = .tcpParse ∧ 5 ≤ s.dataOffset ∧ avail < 4 * s.dataOffset) ∨
      (i = .udpParse ∧ avail < 8)) ∧
    (t.errKind = .truncatedInput → t.cursor = s.cursor ∧ t.outcome = .failed ∧
      (i = .ethParse → t.errLayer = .eth) ∧ (i = .ipv4Parse → t.errLayer = .ipv4) ∧ (i = .icmpParse → t.errLayer = .icmp) ∧
      (i = .tcpParse → t.errLayer = .tcp) ∧ (i = .udpParse → t.errLayer = .udp))

/-- 60_exceptions.md R252: BadHeaderLength is raised by IPV4_PARSE with 20 bytes left and IHL below 5, and by TCP_PARSE with 14
bytes left and a data offset nibble below 5, and by nothing else. -/
def Obligations.BadHeaderLengthExactly : Prop :=
  ∀ (i : Instr) (s t : State) (avail : Nat), s.cursor.toNat + avail = s.frameLen.toNat → s.errKind = .none →
    isEngineOp i = true → exec i s = .next t →
    (t.errKind = .badHeaderLength ↔
      (i = .ipv4Parse ∧ 20 ≤ avail ∧ s.ihl < 5) ∨ (i = .tcpParse ∧ 14 ≤ avail ∧ s.dataOffset < 5)) ∧
    (t.errKind = .badHeaderLength → t.cursor = s.cursor ∧ t.outcome = .failed ∧
      (i = .ipv4Parse → t.errLayer = .ipv4) ∧ (i = .tcpParse → t.errLayer = .tcp))

/-! ## Host operations -/

/-- 43_dissector.md R217: a 32-bit write to CTRL with data bit 0 set is HOST_START, whatever bits 31:1 hold. At IDLE or DONE it
clears the last result and begins at ETH, with STATUS BUSY alone; while busy it is ignored. With bit 0 clear the write does
nothing. -/
def Obligations.StartBeginsDissection : Prop :=
  ∀ (s : State) (d : Word),
    (d.toNat % 2 = 1 → decodeAccess ⟨.write d, 32#8, 0#32⟩ = .hostStart d) ∧
    (d.toNat % 2 = 0 → exec (decodeAccess ⟨.write d, 32#8, 0#32⟩) s = .next s) ∧
    (s.stage = .idle ∨ s.stage = .done → ∃ t, exec (.hostStart d) s = .next t ∧
      t = { s with
        outcome := .none
        errKind := .none
        errLayer := .none
        vmismatch := false
        results := Results.zero
        cursor := 0
        stage := .eth } ∧
      t.statusWord = 0x00000001#32) ∧
    (s.stage ≠ .idle → s.stage ≠ .done → exec (.hostStart d) s = .next s)

/-- 43_dissector.md R218: an 8-bit write to offset `0x10000 + a` is HOST_WRITE_FB. At IDLE or DONE the byte at `a`, and no other,
gets the value, and no register changes; while busy the write is dropped. -/
def Obligations.FbWriteStoresOneByte : Prop :=
  ∀ (s : State) (a : Half) (v : Byte), a.toNat ≤ 65534 →
    (∀ d : Word, d.setWidth 8 = v → decodeAccess ⟨.write d, 8#8, 0x10000#32 + a.setWidth 32⟩ = .hostWriteFb a v) ∧
    (s.stage = .idle ∨ s.stage = .done → ∃ t, exec (.hostWriteFb a v) s = .next t ∧
      t.fbByte a.toNat = v ∧ (∀ b, b ≠ a.toNat → t.fbByte b = s.fbByte b) ∧ t = { s with fb := t.fb }) ∧
    (s.stage ≠ .idle → s.stage ≠ .done → exec (.hostWriteFb a v) s = .next s)

/-- 43_dissector.md R219: a 32-bit write to offset 0x008 is HOST_WRITE_FRAME_LEN. At IDLE or DONE FRAME_LEN takes bits 15:0 of the
data and nothing else changes; while busy the write is dropped. -/
def Obligations.FrameLenWriteTakesLowHalf : Prop :=
  ∀ (s : State) (d : Word),
    decodeAccess ⟨.write d, 32#8, 8#32⟩ = .hostWriteFrameLen d ∧
    (s.stage = .idle ∨ s.stage = .done → ∃ t, exec (.hostWriteFrameLen d) s = .next t ∧
      t.frameLen.toNat = d.toNat % 65536 ∧ t = { s with frameLen := t.frameLen }) ∧
    (s.stage ≠ .idle → s.stage ≠ .done → exec (.hostWriteFrameLen d) s = .next s)

/-- 43_dissector.md R220: a 32-bit read at a multiple of 4 below 0x10000 is HOST_READ_REG. What it returns at each offset of the
register map, in every stage, the STAGE codes in numbers, and that it has no other effect; CTRL and reserved offsets return 0. -/
def Obligations.RegisterReadReturnsMap : Prop :=
  ∀ (s : State) (o : Half),
    (o.toNat % 4 = 0 → decodeAccess ⟨.read, 32#8, o.setWidth 32⟩ = .hostReadReg o) ∧
    exec (.hostReadReg o) s = .next { s with readData :=
    (if o = 0x004#16 then s.statusWord
    else if o = 0x008#16 then s.frameLen.setWidth 32
    else if o = 0x00C#16 then
      (match s.stage with
       | .idle => 0
       | .eth => 1
       | .net => 2
       | .trn => 3
       | .done => 4)
    else if o = 0x010#16 then s.cursor.setWidth 32
    else if o = 0x014#16 then s.results.payloadOff.setWidth 32
    else if o = 0x018#16 then s.results.payloadLen.setWidth 32
    else if o = 0x020#16 then BitVec.ofNat 32 (s.results.ethDst.toNat / 2 ^ 32)
    else if o = 0x024#16 then BitVec.ofNat 32 (s.results.ethDst.toNat % 2 ^ 32)
    else if o = 0x028#16 then BitVec.ofNat 32 (s.results.ethSrc.toNat / 2 ^ 32)
    else if o = 0x02C#16 then BitVec.ofNat 32 (s.results.ethSrc.toNat % 2 ^ 32)
    else if o = 0x030#16 then s.results.ethType.setWidth 32
    else if o = 0x040#16 then s.results.ipVersion.setWidth 32
    else if o = 0x044#16 then s.results.ipHlen.setWidth 32
    else if o = 0x048#16 then s.results.ipTtl.setWidth 32
    else if o = 0x04C#16 then s.results.ipProto.setWidth 32
    else if o = 0x050#16 then s.results.ipSrc
    else if o = 0x054#16 then s.results.ipDst
    else if o = 0x060#16 then s.results.icmpType.setWidth 32
    else if o = 0x064#16 then s.results.icmpCode.setWidth 32
    else if o = 0x068#16 then s.results.icmpCsum.setWidth 32
    else if o = 0x070#16 then s.results.tcpSport.setWidth 32
    else if o = 0x074#16 then s.results.tcpDport.setWidth 32
    else if o = 0x078#16 then s.results.tcpSeq
    else if o = 0x07C#16 then s.results.tcpAck
    else if o = 0x080#16 then s.results.tcpDoff.setWidth 32
    else if o = 0x084#16 then s.results.tcpFlags.setWidth 32
    else if o = 0x090#16 then s.results.udpSport.setWidth 32
    else if o = 0x094#16 then s.results.udpDport.setWidth 32
    else if o = 0x098#16 then s.results.udpLen.setWidth 32
    else 0) }

/-- 43_dissector.md R221: an 8-bit read at offset `0x10000 + a` is HOST_READ_FB. In every stage it returns the byte, zero-extended,
and has no other effect. -/
def Obligations.FbReadReturnsByte : Prop :=
  ∀ (s : State) (a : Half), a.toNat ≤ 65534 →
    decodeAccess ⟨.read, 8#8, 0x10000#32 + a.setWidth 32⟩ = .hostReadFb a ∧
    ∃ t, exec (.hostReadFb a) s = .next t ∧ t = { s with readData := t.readData } ∧
      t.readData.toNat = (s.fbByte a.toNat).toNat

/-- 43_dissector.md R222 and 20_memory.md R82: an access is HOST_WRITE_IGNORED exactly when it is ignored; such a write changes no
state, and such a read returns 0. That ignored reads are this operation too is read from R82 by inference (DEDUCED, log 13). -/
def Obligations.IgnoredAccessChangesNothing : Prop :=
  ∀ (s : State) (a : BusAccess),
    (a.ignored = true ↔ decodeAccess a = .hostWriteIgnored a) ∧
    (∀ d, a.dir = .write d → ¬ (∃ d', decodeAccess a = .hostStart d') → ¬ (∃ b v, decodeAccess a = .hostWriteFb b v) →
      ¬ (∃ d', decodeAccess a = .hostWriteFrameLen d') → decodeAccess a = .hostWriteIgnored a) ∧
    exec (.hostWriteIgnored a) s = .next (if a.dir = .read then { s with readData := 0 } else s)

/-- 10_state.md R50 and 20_memory.md R84: no read, of any kind, changes anything but what it returns to the host. -/
def Obligations.ReadsHaveNoSideEffect : Prop :=
  ∀ (a : BusAccess) (s : State), a.dir = .read →
    ∃ v, exec (decodeAccess a) s = .next { s with readData := v }

/-- 10_state.md R39: every bit of STATUS, the codes of OUTCOME, ERR_KIND and ERR_LAYER in numbers (R40 to R42); a read gives that word and has no side effect, and a write is ignored. -/
def Obligations.StatusBitLayout : Prop :=
  ∀ s : State,
    (s.statusWord.getLsbD 0 = true ↔ s.stage = .eth ∨ s.stage = .net ∨ s.stage = .trn) ∧
    (s.statusWord.getLsbD 1 = true ↔ s.stage = .done) ∧
    (s.statusWord.getLsbD 2 = true ↔ s.outcome = .failed) ∧
    s.statusWord.getLsbD 3 = s.vmismatch ∧
    (∀ p ∈ [(DissectionOutcome.none, 0#3), (.ethOnly, 1#3), (.ipv4Unrecognized, 2#3), (.icmp, 3#3), (.tcp, 4#3), (.udp, 5#3),
      (.failed, 6#3)], s.outcome = p.1 → s.statusWord.extractLsb' 4 3 = p.2) ∧
    s.statusWord.getLsbD 7 = false ∧
    (∀ p ∈ [(ErrKind.none, 0#2), (.truncatedInput, 1#2), (.badHeaderLength, 2#2)],
      s.errKind = p.1 → s.statusWord.extractLsb' 8 2 = p.2) ∧
    s.statusWord.extractLsb' 10 2 = 0#2 ∧
    (∀ p ∈ [(ErrLayer.none, 0#3), (.eth, 1#3), (.ipv4, 2#3), (.icmp, 3#3), (.tcp, 4#3), (.udp, 5#3)],
      s.errLayer = p.1 → s.statusWord.extractLsb' 12 3 = p.2) ∧
    s.statusWord.getLsbD 15 = false ∧
    (s.statusWord.getLsbD 16 = true ↔ s.outcome ∈ [.ethOnly, .ipv4Unrecognized, .icmp, .tcp, .udp]) ∧
    (s.statusWord.getLsbD 17 = true ↔ s.outcome ∈ [.ipv4Unrecognized, .icmp, .tcp, .udp]) ∧
    (s.statusWord.getLsbD 18 = true ↔ s.outcome = .icmp) ∧
    (s.statusWord.getLsbD 19 = true ↔ s.outcome = .tcp) ∧
    (s.statusWord.getLsbD 20 = true ↔ s.outcome = .udp) ∧
    (s.statusWord.getLsbD 21 = true ↔ s.outcome ∈ [.ethOnly, .ipv4Unrecognized, .icmp, .tcp, .udp]) ∧
    s.statusWord.extractLsb' 22 10 = 0#10 ∧
    exec (.hostReadReg 0x004) s = .next { s with readData := s.statusWord } ∧
    (∀ d : Word, exec (decodeAccess ⟨.write d, 32#8, 4#32⟩) s = .next s)

/-! ## Reset -/

/-- 70_reset_and_hazards.md R290 and 10_state.md R53: the reset event writes exactly these registers, in any state, and keeps FB;
STATUS then reads 0 and no engine step is enabled. -/
def Obligations.ResetWritesRegisters : Prop :=
  ∀ s : State, ∃ t, applyEvent .reset s = .next t ∧
    t = { s with
      stage := .idle
      cursor := 0
      frameLen := 0
      outcome := .none
      errKind := .none
      errLayer := .none
      vmismatch := false
      results := Results.zero } ∧
    (∀ a, t.fbByte a = s.fbByte a) ∧ t.statusWord = 0 ∧ t.engineOp = none

/-- 70_reset_and_hazards.md R291 and 10_state.md R53: power-up resets every register and leaves no FB byte written; State.reset
is the state after a power-up (its own four fields are the model's choice, logs 1, 3, 4, 7). -/
def Obligations.PowerUpResets : Prop :=
  (∀ s : State, ∃ t, applyEvent .powerUp s = .next t ∧ SameRegisters t State.reset ∧
    ∀ a, Memory.lookup t.fb a = none) ∧
  (∀ o : Half, State.reset.readReg o = 0)

/-! ## Whole-machine rules -/

/-- The invariant holds right after reset (10_state.md R51, R53). -/
def Obligations.InvHoldsAtReset : Prop :=
  State.reset.Inv ∧ State.reset.TaggedTree ∧ State.reset.ResultFitsFrame

/-- 10_state.md R51 (a), (b), (c) and the busy half of (e), the canonical memory and the place of each stage: every step, from
any state where they hold, keeps them. -/
def Obligations.StepKeepsInv : Prop :=
  ∀ s t : State, s.Inv → step s = .next t → t.Inv

/-- 43_dissector.md R227: in every state the result is the tagged tree of the outcome; every step keeps that. -/
def Obligations.StepKeepsTaggedTree : Prop :=
  ∀ s t : State, s.Inv → s.TaggedTree → step s = .next t → t.TaggedTree

/-- 10_state.md R51 (d) and the second half of (e), with the exception of 43_dissector.md R219: every event but a FRAME_LEN
write keeps the residual's extent. -/
def Obligations.ResultFitsFrameUntilNextLength : Prop :=
  ∀ (e : Event) (s t : State), s.Inv → s.ResultFitsFrame → e.writesFrameLen = false → applyEvent e s = .next t →
    t.ResultFitsFrame

/-- 43_dissector.md R212: the changes of STAGE, row by row, and that no other event changes it. -/
def Obligations.StageTransitions : Prop :=
  ∀ (e : Event) (s t : State), s.Inv → applyEvent e s = .next t →
    ((∃ a d, e = .bus a ∧ decodeAccess a = .hostStart d) → s.stage = .idle ∨ s.stage = .done → t.stage = .eth) ∧
    (e = .engine → s.stage = .eth → exec .ethParse s = .next t ∧ t.stage = if t.outcome = .failed then .done else .net) ∧
    (e = .engine → s.stage = .net → s.results.ethType = 0x0800#16 →
      exec .ipv4Parse s = .next t ∧ t.stage = if t.outcome = .failed then .done else .trn) ∧
    (e = .engine → s.stage = .net → s.results.ethType ≠ 0x0800#16 →
      exec (.netUnrecognized s.results.ethType) s = .next t ∧ t.stage = .done) ∧
    (e = .engine → s.stage = .trn → t.stage = .done) ∧
    (e = .reset ∨ e = .powerUp → t.stage = .idle) ∧
    (t.stage ≠ s.stage →
      (e = .engine ∧ s.busy = true) ∨ ((∃ a d, e = .bus a ∧ decodeAccess a = .hostStart d) ∧ s.busy = false) ∨
        e = .reset ∨ e = .powerUp)

/-- While a dissection runs, no event but reset and power-up changes FB or FRAME_LEN (20_memory.md R88, which the spec derives from
R87 and 43_dissector.md R218, R219). -/
def Obligations.BusyFrameIsImmutable : Prop :=
  ∀ (e : Event) (s t : State), s.busy = true → e.running = true → applyEvent e s = .next t →
    t.frameLen = s.frameLen ∧ ∀ a, t.fbByte a = s.fbByte a

/-- The engine never writes FB or FRAME_LEN (20_memory.md R70, R76), nor the model's own fields. A transport operation keeps CURSOR
(10_state.md R35) and, unless the dissection fails, every Ethernet and IPv4 register and VMISMATCH, which others write (R45); where
it fails, all are cleared (60_exceptions.md R256). -/
def Obligations.EngineOperationFrame : Prop :=
  ∀ (i : Instr) (s t : State), isEngineOp i = true → exec i s = .next t →
    (∀ a, t.fbByte a = s.fbByte a) ∧ t.frameLen = s.frameLen ∧ SameEnvironment t s ∧
    (isTransportOp i = true → t.cursor = s.cursor ∧
      ((t.outcome = .failed ∧ t.results = Results.zero ∧ t.vmismatch = false) ∨
        (t.outcome ≠ .failed ∧
          t.results.ethDst = s.results.ethDst ∧ t.results.ethSrc = s.results.ethSrc ∧ t.results.ethType = s.results.ethType ∧
          t.results.ipVersion = s.results.ipVersion ∧ t.results.ipHlen = s.results.ipHlen ∧ t.results.ipTtl = s.results.ipTtl ∧
          t.results.ipProto = s.results.ipProto ∧ t.results.ipSrc = s.results.ipSrc ∧ t.results.ipDst = s.results.ipDst ∧
          t.vmismatch = s.vmismatch)))

/-- 20_memory.md R71: every FB byte, written or still a draw, keeps its value through every event but power-up, until the host
writes that byte. -/
def Obligations.BytesAreStable : Prop :=
  ∀ (e : Event) (s t : State) (b : Nat), e ≠ .powerUp → applyEvent e s = .next t → t.fbByte b ≠ s.fbByte b →
    ∃ a v, ∃ acc, e = .bus acc ∧ decodeAccess acc = .hostWriteFb a v ∧ a.toNat = b ∧ t.fbByte b = v ∧ s.busy = false

/-- A result the host sees at DONE stays until the next START, a reset or a power-up (20_memory.md R89, which the spec derives): no
engine step, read, FB write, FRAME_LEN write or ignored access changes it. -/
def Obligations.ResultStaysAtDone : Prop :=
  ∀ (es : List Event) (s : State), s.stage = .done → (∀ e ∈ es, ¬ e.endsResult) →
    ∃ t, runEvents es s = .next t ∧ SameResult t s

/-- An engine operation reads only bytes of the frame (20_memory.md R75, which the spec derives). Two states that agree on every
register and on the bytes below FRAME_LEN agree on every register after it. -/
def Obligations.EngineReadsOnlyTheFrame : Prop :=
  ∀ (i : Instr) (s s' t t' : State), isEngineOp i = true → s.cursor.toNat ≤ s.frameLen.toNat →
    SameRegisters s s' → SameFrame s s' → exec i s = .next t → exec i s' = .next t' → SameRegisters t t'

/-- The bytes no field is read from change nothing (30_encoding.md R113). Which bytes are read is listed per operation, as offsets
from CURSOR; of byte 12 of a TCP header only the high nibble counts, of byte 13 only the low six bits. -/
def Obligations.IgnoredBitsChangeNothing : Prop :=
  ∀ s s' : State, SameRegisters s s' →
    (∀ t t', (∀ k ∈ [0, 8, 9, 12, 13, 14, 15, 16, 17, 18, 19], s.fbByte (s.cursor.toNat + k) = s'.fbByte (s.cursor.toNat + k)) →
      exec .ipv4Parse s = .next t → exec .ipv4Parse s' = .next t' → SameRegisters t t') ∧
    (∀ t t', (∀ k < 12, s.fbByte (s.cursor.toNat + k) = s'.fbByte (s.cursor.toNat + k)) →
      s.dataOffset = s'.dataOffset →
      (s.fbByte (s.cursor.toNat + 13)).setWidth 6 = (s'.fbByte (s.cursor.toNat + 13)).setWidth 6 →
      exec .tcpParse s = .next t → exec .tcpParse s' = .next t' → SameRegisters t t') ∧
    (∀ t t', (∀ k < 6, s.fbByte (s.cursor.toNat + k) = s'.fbByte (s.cursor.toNat + k)) →
      exec .udpParse s = .next t → exec .udpParse s' = .next t' → SameRegisters t t')

/-- A wider read is made of narrower ones, the lower address more significant (20_memory.md R73, R74, R79). -/
def Obligations.WideReadsAreBigEndian : Prop :=
  ∀ (s : State) (a : Nat),
    (s.memRead2 a).toNat = (s.memRead1 a).toNat * 256 + (s.memRead1 (a + 1)).toNat ∧
    (s.memRead4 a).toNat = (s.memRead2 a).toNat * 65536 + (s.memRead2 (a + 2)).toNat ∧
    s.memBytes4 a = s.memRead4 a ∧
    (s.memBytes6 a).toNat = (s.memRead2 a).toNat * 2 ^ 32 + (s.memBytes4 (a + 2)).toNat

/-- From ETH, whatever host operations come in between, DONE is reached after one engine step when ETH_PARSE fails, after two when
the ether_type is unrecognized or IPV4_PARSE fails, and after three otherwise (43_dissector.md R215, which the spec derives from
R212). -/
def Obligations.DissectionEndsWithinThreeSteps : Prop :=
  ∀ (es : List Event) (s : State), s.Inv → s.stage = .eth → (∀ e ∈ es, e.running = true) → 3 ≤ engineSteps es →
    ∃ before after t, es = before ++ after ∧ runEvents before s = .next t ∧ t.stage = .done ∧
      ((engineSteps before = 1 ∧ t.errLayer = .eth) ∨
       (engineSteps before = 2 ∧ (t.outcome = .ethOnly ∨ t.errLayer = .ipv4)) ∨
       (engineSteps before = 3 ∧ t.outcome ≠ .ethOnly ∧ t.errLayer ≠ .eth ∧ t.errLayer ≠ .ipv4))

/-- Two blocks that hold the same frame give the same result after START, whatever their last results were and whatever reads are
interleaved with their engine steps (43_dissector.md R225, which the spec derives). -/
def Obligations.DissectionIsDeterministic : Prop :=
  ∀ (s s' t t' : State) (es es' : List Event) (d d' : Word),
    SameFrame s s' → s.busy = false → s'.busy = false →
    (∀ e ∈ es, e.harmless = true) → (∀ e ∈ es', e.harmless = true) → 3 ≤ engineSteps es → 3 ≤ engineSteps es' →
    runEvents (.bus ⟨.write (d ||| 1#32), 32#8, 0#32⟩ :: es) s = .next t →
    runEvents (.bus ⟨.write (d' ||| 1#32), 32#8, 0#32⟩ :: es') s' = .next t' →
    t.stage = .done ∧ SameResult t t'

/-- The schedule is played in order: as many steps as it begins with events do what the events do one after another, and leave
the rest of it (log 3; 20_memory.md R87). -/
def Obligations.ScheduleIsPlayedInOrder : Prop :=
  ∀ (es rest : List Event) (s t : State), runEvents es { s with schedule := rest } = .next t →
    Sys2Proof.core.run es.length { s with schedule := es ++ rest } = .next t

/-! ## Notation, rendering, systems -/

/-- 30_encoding.md R123: the bytes of a header pseudo-instruction at CURSOR are decoded back to its operands, for every operand
and every option content. -/
def Obligations.HeaderNotationReadsBack : Prop :=
  ∀ (s : State) (c : Nat), c = s.cursor.toNat →
    (∀ dst src etherType, s.fbRun c 14 = ethHeader dst src etherType → c + 14 ≤ s.frameLen.toNat →
      ∃ t, exec .ethParse s = .next t ∧ t.results.ethDst = dst ∧ t.results.ethSrc = src ∧ t.results.ethType = etherType) ∧
    (∀ ver ihl ttl proto src dst opt, 5 ≤ BitVec.toNat ihl → opt.length ≤ 4 * BitVec.toNat ihl - 20 →
      s.fbRun c (4 * BitVec.toNat ihl) = ipv4Header ver ihl ttl proto src dst opt →
      c + 4 * BitVec.toNat ihl ≤ s.frameLen.toNat →
      ∃ t, exec .ipv4Parse s = .next t ∧ t.stage = .trn ∧ t.results.ipVersion = ver ∧
        t.results.ipHlen.toNat = 4 * BitVec.toNat ihl ∧ t.results.ipTtl = ttl ∧ t.results.ipProto = proto ∧
        t.results.ipSrc = src ∧ t.results.ipDst = dst) ∧
    (∀ type code csum, s.fbRun c 4 = icmpHeader type code csum → c + 4 ≤ s.frameLen.toNat →
      ∃ t, exec .icmpParse s = .next t ∧ t.results.icmpType = type ∧ t.results.icmpCode = code ∧ t.results.icmpCsum = csum) ∧
    (∀ sport dport seq ack doff flags more, 5 ≤ BitVec.toNat doff → more.length ≤ 4 * BitVec.toNat doff - 14 →
      s.fbRun c (4 * BitVec.toNat doff) = tcpHeader sport dport seq ack doff flags more →
      c + 4 * BitVec.toNat doff ≤ s.frameLen.toNat →
      ∃ t, exec .tcpParse s = .next t ∧ t.outcome = .tcp ∧ t.results.tcpSport = sport ∧ t.results.tcpDport = dport ∧
        t.results.tcpSeq = seq ∧ t.results.tcpAck = ack ∧ t.results.tcpDoff.toNat = 4 * BitVec.toNat doff ∧
        t.results.tcpFlags = BitVec.setWidth 6 flags) ∧
    (∀ sport dport len csum, s.fbRun c 8 = udpHeader sport dport len csum → c + 8 ≤ s.frameLen.toNat →
      ∃ t, exec .udpParse s = .next t ∧ t.results.udpSport = sport ∧ t.results.udpDport = dport ∧ t.results.udpLen = len)

/-- 44_host_rendering.md R240: a hardware address renders as 17 characters, and no two render alike. -/
def Obligations.MacRenderingIsFaithful : Prop :=
  (∀ m : Mac, (renderMac m).length = 17) ∧ ∀ m m' : Mac, renderMac m = renderMac m' → m = m'

/-- 44_host_rendering.md R242: where the label leaves room for one byte, the lines of a dump show the bytes in order, split into
runs of whole bytes; a line is the label and its run's cells, each with both digits of its byte, and has at most
`80 − length(label)` characters after the label. That no line is without a byte, and that the separator stands only between two
bytes of a line, is the model's choice (log 9). -/
def Obligations.DumpLinesFitColumns : Prop :=
  ∀ (fmt : HexFormat) (label : List Char) (b : Byte) (bytes : List Byte),
    label.length + (hexCell fmt b).length ≤ 80 →
    ∃ runs : List (List Byte), runs.flatten = b :: bytes ∧
      hexDump fmt label (b :: bytes) = runs.map (fun run => label ++ joinText fmt.separator (run.map (hexCell fmt))) ∧
      ∀ run ∈ runs, run ≠ [] ∧ (joinText fmt.separator (run.map (hexCell fmt))).length ≤ 80 - label.length

/-- 10_state.md R31 and 60_exceptions.md R269: a step of one instance is its own step and leaves every other instance as it is,
and the system stays one of instances told apart by FP_BASE (that its blocks are a list is log 8). -/
def Obligations.InstancesAreIndependent : Prop :=
  (∀ (k j : Nat) (sys sys' : System), sys.stepAt k = .next sys' → j ≠ k → sys'.blocks[j]? = sys.blocks[j]?) ∧
  (∀ (k : Nat) (sys : System) (s t : State), sys.blocks[k]? = some s → step s = .next t →
    ∃ sys', sys.stepAt k = .next sys' ∧ sys'.blocks[k]? = some t) ∧
  (∀ (k : Nat) (sys sys' : System), sys.wf → sys.stepAt k = .next sys' → sys'.wf)

/-- 20_memory.md R85 and 60_exceptions.md R269: FP_BASE is a multiple of 0x20000; a bus address lies in the window
`[FP_BASE, FP_BASE + 0x20000)` of at most one instance; a transaction there is a coming event of that instance, at the offset from
its FP_BASE, and of no other (the schedule is the model's, log 3, FP_BASE its argument, log 7, and that an
address in no window reaches no block its choice, log 20). -/
def Obligations.BusAddressNamesOneInstance : Prop :=
  (∀ s : State, s.fpBase.toNat % 0x20000 = 0) ∧
  (∀ (sys : System) (j k : Nat) (s s' : State) (address : Word), sys.wf → sys.blocks[j]? = some s → sys.blocks[k]? = some s' →
    s.fpBase.toNat ≤ address.toNat → address.toNat < s.fpBase.toNat + 0x20000 →
    s'.fpBase.toNat ≤ address.toNat → address.toNat < s'.fpBase.toNat + 0x20000 → j = k) ∧
  (∀ (sys : System) (dir : Direction) (width : Byte) (address : Word), sys.wf → (sys.post dir width address).wf) ∧
  (∀ (sys : System) (dir : Direction) (width : Byte) (address : Word) (k : Nat) (s : State), sys.blocks[k]? = some s →
    (sys.post dir width address).blocks[k]? = some
      (if s.fpBase.toNat ≤ address.toNat ∧ address.toNat < s.fpBase.toNat + 0x20000 then
        { s with schedule := s.schedule ++ [.bus ⟨dir, width, BitVec.ofNat 32 (address.toNat - s.fpBase.toNat)⟩] }
      else s))
end

