-- ==== Sys2Proof/Laws/Decode.lean ====
section
/-! SUPPORT. What the decoder reads back from the encoder's words, and the dispatch table as one case split. -/

namespace Sys2Proof

/-! ## Words and bytes -/

@[simp] theorem wordOfBytes_bytesOfWord (w : BitVec 80) (rest : List Byte) :
    wordOfBytes (bytesOfWord w ++ rest) = some (w, rest) := by
  have h : w.extractLsb' 72 8 ++ w.extractLsb' 64 8 ++ w.extractLsb' 56 8 ++ w.extractLsb' 48 8 ++ w.extractLsb' 40 8
      ++ w.extractLsb' 32 8 ++ w.extractLsb' 24 8 ++ w.extractLsb' 16 8 ++ w.extractLsb' 8 8 ++ w.extractLsb' 0 8 = w := by
    ext i hi
    simp only [BitVec.getElem_append, BitVec.getElem_extractLsb']
    repeat' split
    all_goals (rw [← BitVec.getLsbD_eq_getElem]; congr 1; omega)
  simp only [bytesOfWord, List.cons_append, List.nil_append, wordOfBytes, h]

/-- Decoding the bytes of a word is decoding the word. -/
theorem decode_bytesOfWord (w : BitVec 80) (rest : List Byte) :
    decode (bytesOfWord w ++ rest) =
      match decodeWord w with
      | .ok i => .ok (i, rest)
      | .error e => .error e := by
  cases h : decodeWord w <;> simp [decode, h]

/-! ## Fields of an access word -/

/-- The fields of a word laid out as data, width, form and offset. -/
theorem fields_of_append (d : Word) (width form : Byte) (offset : Word) :
    let w : BitVec 80 := d ++ width ++ form ++ offset
    w.extractLsb' 0 32 = offset ∧ w.extractLsb' 32 8 = form ∧ w.extractLsb' 40 8 = width ∧ w.extractLsb' 48 32 = d := by
  refine ⟨?_, ?_, ?_, ?_⟩ <;>
  · ext i hi
    simp only [BitVec.getElem_extractLsb', BitVec.getLsbD_append]
    repeat' split
    all_goals first | omega | (rw [← BitVec.getLsbD_eq_getElem]; congr 1; omega)

/-- An access is read back whole from its word. -/
theorem readWord_accessWord (a : BusAccess) : readWord (accessWord a) = .ok (.access a) := by
  obtain ⟨dir, width, offset⟩ := a
  cases dir with
  | read =>
    obtain ⟨h0, h1, h2, h3⟩ := fields_of_append 0#32 width 1#8 offset
    simp only [readWord, accessWord, h0, h1, h2, h3]
    simp
  | write d =>
    obtain ⟨h0, h1, h2, h3⟩ := fields_of_append d width 2#8 offset
    simp only [readWord, accessWord, h0, h1, h2, h3]
    simp

/-- A bare table word is read back as its selector, when its stage is ETH, NET or TRN. -/
theorem readWord_tableWord (sel : BitVec 19) (lo : 0x10000 ≤ sel.toNat) (hi : sel.toNat < 0x40000) :
    readWord (tableWord sel) = .ok (.selector sel) := by
  have h0 : (tableWord sel).extractLsb' 0 32 = sel.setWidth 32 := by
    apply BitVec.eq_of_toNat_eq; simp [tableWord]
  have h1 : (tableWord sel).extractLsb' 32 8 = 0#8 := by
    apply BitVec.eq_of_toNat_eq; simp [tableWord, Nat.shiftRight_eq_div_pow]; omega
  have h2 : (tableWord sel).extractLsb' 40 8 = 0#8 := by
    apply BitVec.eq_of_toNat_eq; simp [tableWord, Nat.shiftRight_eq_div_pow]; omega
  have h3 : (tableWord sel).extractLsb' 48 32 = 0#32 := by
    apply BitVec.eq_of_toNat_eq; simp [tableWord, Nat.shiftRight_eq_div_pow]; omega
  have h4 : (sel.setWidth 32).toNat = sel.toNat := by simp; omega
  simp only [readWord, h0, h1, h2, h3, readTableWord, h4, lo, hi]
  simp [BitVec.setWidth_setWidth_of_le]

/-! ## The dispatch table -/

@[simp] theorem selectorCode_append (stage : BitVec 3) (code : Half) : selectorCode (stage ++ code) = code :=
  BitVec.extractLsb'_append_eq_right

@[simp] theorem selectorStage_append (stage : BitVec 3) (code : Half) : selectorStage (stage ++ code) = stage :=
  BitVec.extractLsb'_append_eq_left

/-- A selector is its stage and its code. -/
theorem selector_parts (sel : BitVec 19) : selectorStage sel ++ selectorCode sel = sel := by
  ext i hi
  simp only [selectorStage, selectorCode, BitVec.getElem_append, BitVec.getElem_extractLsb']
  split <;> (rw [← BitVec.getLsbD_eq_getElem]; congr 1; omega)

theorem selector_eq_iff (s t : BitVec 3) (c d : Half) : s ++ c = t ++ d ↔ s = t ∧ c = d := by
  constructor
  · intro h
    have h1 := congrArg selectorStage h
    have h2 := congrArg selectorCode h
    simp only [selectorStage_append, selectorCode_append] at h1 h2
    exact ⟨h1, h2⟩
  · rintro ⟨rfl, rfl⟩; rfl

/-- A row that masks the code away matches on the stage alone. -/
theorem and_stageMask (s : BitVec 3) (c : Half) : (s ++ c) &&& 0x70000#19 = s ++ 0#16 := by
  rw [show (0x70000#19 : BitVec 19) = 7#3 ++ 0#16 from by decide, BitVec.and_append, selector_eq_iff]
  exact ⟨by revert s; decide, BitVec.and_zero⟩

/-- A row with a full mask matches one selector. -/
theorem and_fullMask (sel : BitVec 19) : sel &&& 0x7FFFF#19 = sel := by
  rw [show (0x7FFFF#19 : BitVec 19) = BitVec.allOnes 19 from by decide, BitVec.and_allOnes]

/-- What the table selects at each stage field and code (30_encoding.md R117). -/
theorem decodeSelector_append (s : BitVec 3) (c : Half) :
    decodeSelector (s ++ c) =
      if s = 1#3 then some .ethParse
      else if s = 2#3 then (if c = 0x0800#16 then some .ipv4Parse else some (.netUnrecognized c))
      else if s = 3#3 then
        (if c = 1#16 then some .icmpParse else if c = 6#16 then some .tcpParse
         else if c = 17#16 then some .udpParse else some (.trnUnrecognized c))
      else none := by
  have hm : ∀ t : BitVec 3, ∀ d : Half, (s ++ c == t ++ d) = (decide (s = t) && decide (c = d)) := by
    intro t d
    rw [Bool.eq_iff_iff]; simp [selector_eq_iff]
  have h0 : ∀ t : BitVec 3, (s ++ 0#16 == t ++ 0#16) = decide (s = t) := by
    intro t
    rw [Bool.eq_iff_iff]; simp [selector_eq_iff]
  simp only [decodeSelector, dispatchTable, DispatchRow.meets, List.find?, and_stageMask, and_fullMask, selectorCode_append]
  rw [show (0x10000#19 : BitVec 19) = 1#3 ++ 0#16 from by decide, show (0x20800#19 : BitVec 19) = 2#3 ++ 0x0800#16 from by decide,
    show (0x20000#19 : BitVec 19) = 2#3 ++ 0#16 from by decide, show (0x30001#19 : BitVec 19) = 3#3 ++ 1#16 from by decide,
    show (0x30006#19 : BitVec 19) = 3#3 ++ 6#16 from by decide, show (0x30011#19 : BitVec 19) = 3#3 ++ 17#16 from by decide,
    show (0x30000#19 : BitVec 19) = 3#3 ++ 0#16 from by decide]
  simp only [hm, h0]
  by_cases h1 : s = 1#3
  · subst h1; simp
  by_cases h2 : s = 2#3
  · subst h2; by_cases hc : c = 0x0800#16 <;> simp [hc]
  by_cases h3 : s = 3#3
  · subst h3
    by_cases hc1 : c = 1#16
    · simp [hc1]
    by_cases hc6 : c = 6#16
    · simp [hc6]
    by_cases hc17 : c = 17#16 <;> simp [hc1, hc6, hc17]
  · simp [h1, h2, h3]

end Sys2Proof
end

