-- ==== Sys2Proof/Laws/State.lean ====
section
/-! SUPPORT. One lemma per field of State and shared operation, each true by unfolding the operation once. -/

namespace Sys2Proof.Machine

/-! ## abort -/

@[simp] theorem State.abort_fb (s : State) (kind : ErrKind) (layer : ErrLayer) : (s.abort kind layer).fb = s.fb := rfl
@[simp] theorem State.abort_frameLen (s : State) (kind : ErrKind) (layer : ErrLayer) : (s.abort kind layer).frameLen = s.frameLen := rfl
@[simp] theorem State.abort_stage (s : State) (kind : ErrKind) (layer : ErrLayer) : (s.abort kind layer).stage = .done := rfl
@[simp] theorem State.abort_cursor (s : State) (kind : ErrKind) (layer : ErrLayer) : (s.abort kind layer).cursor = s.cursor := rfl
@[simp] theorem State.abort_outcome (s : State) (kind : ErrKind) (layer : ErrLayer) : (s.abort kind layer).outcome = .failed := rfl
@[simp] theorem State.abort_errKind (s : State) (kind : ErrKind) (layer : ErrLayer) : (s.abort kind layer).errKind = kind := rfl
@[simp] theorem State.abort_errLayer (s : State) (kind : ErrKind) (layer : ErrLayer) : (s.abort kind layer).errLayer = layer := rfl
@[simp] theorem State.abort_vmismatch (s : State) (kind : ErrKind) (layer : ErrLayer) : (s.abort kind layer).vmismatch = false := rfl
@[simp] theorem State.abort_results (s : State) (kind : ErrKind) (layer : ErrLayer) : (s.abort kind layer).results = Results.zero := rfl
@[simp] theorem State.abort_fpWindow (s : State) (kind : ErrKind) (layer : ErrLayer) : (s.abort kind layer).fpWindow = s.fpWindow := rfl
@[simp] theorem State.abort_powerUps (s : State) (kind : ErrKind) (layer : ErrLayer) : (s.abort kind layer).powerUps = s.powerUps := rfl
@[simp] theorem State.abort_schedule (s : State) (kind : ErrKind) (layer : ErrLayer) : (s.abort kind layer).schedule = s.schedule := rfl
@[simp] theorem State.abort_readData (s : State) (kind : ErrKind) (layer : ErrLayer) : (s.abort kind layer).readData = s.readData := rfl
@[simp] theorem State.abort_fbByte (s : State) (kind : ErrKind) (layer : ErrLayer) (a : Nat) : (s.abort kind layer).fbByte a = s.fbByte a := rfl

/-! ## finish -/

@[simp] theorem State.finish_fb (s : State) (outcome : DissectionOutcome) (off len : Nat) : (s.finish outcome off len).fb = s.fb := rfl
@[simp] theorem State.finish_frameLen (s : State) (outcome : DissectionOutcome) (off len : Nat) : (s.finish outcome off len).frameLen = s.frameLen := rfl
@[simp] theorem State.finish_stage (s : State) (outcome : DissectionOutcome) (off len : Nat) : (s.finish outcome off len).stage = .done := rfl
@[simp] theorem State.finish_cursor (s : State) (outcome : DissectionOutcome) (off len : Nat) : (s.finish outcome off len).cursor = s.cursor := rfl
@[simp] theorem State.finish_outcome (s : State) (outcome : DissectionOutcome) (off len : Nat) : (s.finish outcome off len).outcome = outcome := rfl
@[simp] theorem State.finish_errKind (s : State) (outcome : DissectionOutcome) (off len : Nat) : (s.finish outcome off len).errKind = s.errKind := rfl
@[simp] theorem State.finish_errLayer (s : State) (outcome : DissectionOutcome) (off len : Nat) : (s.finish outcome off len).errLayer = s.errLayer := rfl
@[simp] theorem State.finish_vmismatch (s : State) (outcome : DissectionOutcome) (off len : Nat) : (s.finish outcome off len).vmismatch = s.vmismatch := rfl
@[simp] theorem State.finish_results (s : State) (outcome : DissectionOutcome) (off len : Nat) : (s.finish outcome off len).results = 
    { s.results with payloadOff := BitVec.ofNat 16 off, payloadLen := BitVec.ofNat 16 len } := rfl
@[simp] theorem State.finish_fpWindow (s : State) (outcome : DissectionOutcome) (off len : Nat) : (s.finish outcome off len).fpWindow = s.fpWindow := rfl
@[simp] theorem State.finish_powerUps (s : State) (outcome : DissectionOutcome) (off len : Nat) : (s.finish outcome off len).powerUps = s.powerUps := rfl
@[simp] theorem State.finish_schedule (s : State) (outcome : DissectionOutcome) (off len : Nat) : (s.finish outcome off len).schedule = s.schedule := rfl
@[simp] theorem State.finish_readData (s : State) (outcome : DissectionOutcome) (off len : Nat) : (s.finish outcome off len).readData = s.readData := rfl
@[simp] theorem State.finish_fbByte (s : State) (outcome : DissectionOutcome) (off len : Nat) (a : Nat) : (s.finish outcome off len).fbByte a = s.fbByte a := rfl

/-! ## startDissection -/

@[simp] theorem State.startDissection_fb (s : State) : (s.startDissection).fb = s.fb := rfl
@[simp] theorem State.startDissection_frameLen (s : State) : (s.startDissection).frameLen = s.frameLen := rfl
@[simp] theorem State.startDissection_stage (s : State) : (s.startDissection).stage = .eth := rfl
@[simp] theorem State.startDissection_cursor (s : State) : (s.startDissection).cursor = 0 := rfl
@[simp] theorem State.startDissection_outcome (s : State) : (s.startDissection).outcome = .none := rfl
@[simp] theorem State.startDissection_errKind (s : State) : (s.startDissection).errKind = .none := rfl
@[simp] theorem State.startDissection_errLayer (s : State) : (s.startDissection).errLayer = .none := rfl
@[simp] theorem State.startDissection_vmismatch (s : State) : (s.startDissection).vmismatch = false := rfl
@[simp] theorem State.startDissection_results (s : State) : (s.startDissection).results = Results.zero := rfl
@[simp] theorem State.startDissection_fpWindow (s : State) : (s.startDissection).fpWindow = s.fpWindow := rfl
@[simp] theorem State.startDissection_powerUps (s : State) : (s.startDissection).powerUps = s.powerUps := rfl
@[simp] theorem State.startDissection_schedule (s : State) : (s.startDissection).schedule = s.schedule := rfl
@[simp] theorem State.startDissection_readData (s : State) : (s.startDissection).readData = s.readData := rfl
@[simp] theorem State.startDissection_fbByte (s : State) (a : Nat) : (s.startDissection).fbByte a = s.fbByte a := rfl

/-! ## resetBlock -/

@[simp] theorem State.resetBlock_fb (s : State) : (s.resetBlock).fb = s.fb := rfl
@[simp] theorem State.resetBlock_frameLen (s : State) : (s.resetBlock).frameLen = 0 := rfl
@[simp] theorem State.resetBlock_stage (s : State) : (s.resetBlock).stage = .idle := rfl
@[simp] theorem State.resetBlock_cursor (s : State) : (s.resetBlock).cursor = 0 := rfl
@[simp] theorem State.resetBlock_outcome (s : State) : (s.resetBlock).outcome = .none := rfl
@[simp] theorem State.resetBlock_errKind (s : State) : (s.resetBlock).errKind = .none := rfl
@[simp] theorem State.resetBlock_errLayer (s : State) : (s.resetBlock).errLayer = .none := rfl
@[simp] theorem State.resetBlock_vmismatch (s : State) : (s.resetBlock).vmismatch = false := rfl
@[simp] theorem State.resetBlock_results (s : State) : (s.resetBlock).results = Results.zero := rfl
@[simp] theorem State.resetBlock_fpWindow (s : State) : (s.resetBlock).fpWindow = s.fpWindow := rfl
@[simp] theorem State.resetBlock_powerUps (s : State) : (s.resetBlock).powerUps = s.powerUps := rfl
@[simp] theorem State.resetBlock_schedule (s : State) : (s.resetBlock).schedule = s.schedule := rfl
@[simp] theorem State.resetBlock_readData (s : State) : (s.resetBlock).readData = s.readData := rfl
@[simp] theorem State.resetBlock_fbByte (s : State) (a : Nat) : (s.resetBlock).fbByte a = s.fbByte a := rfl

/-! ## powerUpBlock -/

@[simp] theorem State.powerUpBlock_fb (s : State) : (s.powerUpBlock).fb = [] := rfl
@[simp] theorem State.powerUpBlock_frameLen (s : State) : (s.powerUpBlock).frameLen = 0 := rfl
@[simp] theorem State.powerUpBlock_stage (s : State) : (s.powerUpBlock).stage = .idle := rfl
@[simp] theorem State.powerUpBlock_cursor (s : State) : (s.powerUpBlock).cursor = 0 := rfl
@[simp] theorem State.powerUpBlock_outcome (s : State) : (s.powerUpBlock).outcome = .none := rfl
@[simp] theorem State.powerUpBlock_errKind (s : State) : (s.powerUpBlock).errKind = .none := rfl
@[simp] theorem State.powerUpBlock_errLayer (s : State) : (s.powerUpBlock).errLayer = .none := rfl
@[simp] theorem State.powerUpBlock_vmismatch (s : State) : (s.powerUpBlock).vmismatch = false := rfl
@[simp] theorem State.powerUpBlock_results (s : State) : (s.powerUpBlock).results = Results.zero := rfl
@[simp] theorem State.powerUpBlock_fpWindow (s : State) : (s.powerUpBlock).fpWindow = s.fpWindow := rfl
@[simp] theorem State.powerUpBlock_powerUps (s : State) : (s.powerUpBlock).powerUps = s.powerUps + 1 := rfl
@[simp] theorem State.powerUpBlock_schedule (s : State) : (s.powerUpBlock).schedule = s.schedule := rfl
@[simp] theorem State.powerUpBlock_readData (s : State) : (s.powerUpBlock).readData = s.readData := rfl
@[simp] theorem State.powerUpBlock_fbByte (s : State) (a : Nat) : (s.powerUpBlock).fbByte a = Config.powerUpByte s.fpWindow (s.powerUps + 1) a := rfl

/-! ## writeFb -/

theorem State.writeFb_of_lt {s : State} {a : Nat} (v : Byte) (h : a < Config.fbSize) :
    s.writeFb a v = { s with fb := Memory.insert a v s.fb } := by
  simp only [State.writeFb, if_pos h]

theorem State.writeFb_of_ge {s : State} {a : Nat} (v : Byte) (h : ¬ a < Config.fbSize) : s.writeFb a v = s := by
  simp only [State.writeFb, if_neg h]

@[simp] theorem State.writeFb_frameLen (s : State) (a : Nat) (v : Byte) : (s.writeFb a v).frameLen = s.frameLen := by
  unfold State.writeFb; split <;> rfl

@[simp] theorem State.writeFb_stage (s : State) (a : Nat) (v : Byte) : (s.writeFb a v).stage = s.stage := by
  unfold State.writeFb; split <;> rfl

@[simp] theorem State.writeFb_cursor (s : State) (a : Nat) (v : Byte) : (s.writeFb a v).cursor = s.cursor := by
  unfold State.writeFb; split <;> rfl

@[simp] theorem State.writeFb_outcome (s : State) (a : Nat) (v : Byte) : (s.writeFb a v).outcome = s.outcome := by
  unfold State.writeFb; split <;> rfl

@[simp] theorem State.writeFb_errKind (s : State) (a : Nat) (v : Byte) : (s.writeFb a v).errKind = s.errKind := by
  unfold State.writeFb; split <;> rfl

@[simp] theorem State.writeFb_errLayer (s : State) (a : Nat) (v : Byte) : (s.writeFb a v).errLayer = s.errLayer := by
  unfold State.writeFb; split <;> rfl

@[simp] theorem State.writeFb_vmismatch (s : State) (a : Nat) (v : Byte) : (s.writeFb a v).vmismatch = s.vmismatch := by
  unfold State.writeFb; split <;> rfl

@[simp] theorem State.writeFb_results (s : State) (a : Nat) (v : Byte) : (s.writeFb a v).results = s.results := by
  unfold State.writeFb; split <;> rfl

@[simp] theorem State.writeFb_fpWindow (s : State) (a : Nat) (v : Byte) : (s.writeFb a v).fpWindow = s.fpWindow := by
  unfold State.writeFb; split <;> rfl

@[simp] theorem State.writeFb_powerUps (s : State) (a : Nat) (v : Byte) : (s.writeFb a v).powerUps = s.powerUps := by
  unfold State.writeFb; split <;> rfl

@[simp] theorem State.writeFb_schedule (s : State) (a : Nat) (v : Byte) : (s.writeFb a v).schedule = s.schedule := by
  unfold State.writeFb; split <;> rfl

@[simp] theorem State.writeFb_readData (s : State) (a : Nat) (v : Byte) : (s.writeFb a v).readData = s.readData := by
  unfold State.writeFb; split <;> rfl

/-! ## reset -/

@[simp] theorem State.reset_fb : State.reset.fb = [] := rfl
@[simp] theorem State.reset_frameLen : State.reset.frameLen = 0 := rfl
@[simp] theorem State.reset_stage : State.reset.stage = .idle := rfl
@[simp] theorem State.reset_cursor : State.reset.cursor = 0 := rfl
@[simp] theorem State.reset_outcome : State.reset.outcome = .none := rfl
@[simp] theorem State.reset_errKind : State.reset.errKind = .none := rfl
@[simp] theorem State.reset_errLayer : State.reset.errLayer = .none := rfl
@[simp] theorem State.reset_vmismatch : State.reset.vmismatch = false := rfl
@[simp] theorem State.reset_results : State.reset.results = Results.zero := rfl
@[simp] theorem State.reset_fpWindow : State.reset.fpWindow = 0 := rfl
@[simp] theorem State.reset_powerUps : State.reset.powerUps = 0 := rfl
@[simp] theorem State.reset_schedule : State.reset.schedule = [] := rfl
@[simp] theorem State.reset_readData : State.reset.readData = 0 := rfl

/-! ## busy -/

theorem State.busy_eq (s : State) : s.busy = s.stage.busy := rfl

/-- An engine step is enabled exactly at ETH, NET and TRN. -/
theorem Stage.busy_iff (g : Stage) : g.busy = true ↔ g = .eth ∨ g = .net ∨ g = .trn := by
  cases g <;> simp [Stage.busy]

theorem Stage.not_busy_iff (g : Stage) : g.busy = false ↔ g = .idle ∨ g = .done := by
  cases g <;> simp [Stage.busy]

end Sys2Proof.Machine
end

