-- ==== Sys2Proof/Laws/Memory.lean ====
section
/-! SUPPORT. The frame buffer: a read after a write, the canonical form, and equal contents are equal data. -/

namespace Sys2Proof.Machine

/-! ## Read after write -/

@[simp] theorem Memory.lookup_nil (a : Nat) : Memory.lookup [] a = none := rfl

theorem Memory.lookup_insert_same (a : Nat) (v : Byte) (m : Memory) : Memory.lookup (Memory.insert a v m) a = some v := by
  induction m with
  | nil => simp [Memory.insert, Memory.lookup]
  | cons e m ih =>
    obtain ⟨k, w⟩ := e
    simp only [Memory.insert]
    split
    · simp [Memory.lookup]
    · split
      · simp [Memory.lookup]
      · rename_i h1 h2
        simp [Memory.lookup, Ne.symm h2, ih]

theorem Memory.lookup_insert_other {a b : Nat} (v : Byte) (m : Memory) (h : b ≠ a) :
    Memory.lookup (Memory.insert a v m) b = Memory.lookup m b := by
  induction m with
  | nil => simp [Memory.insert, Memory.lookup, Ne.symm h]
  | cons e m ih =>
    obtain ⟨k, w⟩ := e
    simp only [Memory.insert]
    split
    · simp [Memory.lookup, Ne.symm h]
    · split
      · rename_i h1 h2
        subst h2
        simp [Memory.lookup, Ne.symm h]
      · simp only [Memory.lookup, ih]

@[simp] theorem State.fbByte_writeFb_same (s : State) {a : Nat} (v : Byte) (h : a < Config.fbSize) :
    (s.writeFb a v).fbByte a = v := by
  rw [State.writeFb_of_lt v h]
  simp [State.fbByte, Memory.lookup_insert_same]

theorem State.fbByte_writeFb_other (s : State) {a b : Nat} (v : Byte) (h : b ≠ a) :
    (s.writeFb a v).fbByte b = s.fbByte b := by
  unfold State.writeFb
  split
  · simp [State.fbByte, Memory.lookup_insert_other v s.fb h]
  · rfl

/-- Only FB, the power-up count and the instance's window decide what a byte reads as. -/
theorem State.fbByte_congr {s t : State} (hf : s.fb = t.fb) (hp : s.powerUps = t.powerUps) (hw : s.fpWindow = t.fpWindow) (a : Nat) :
    s.fbByte a = t.fbByte a := by
  simp only [State.fbByte, hf, hp, hw]

/-! ## The canonical form -/

theorem Memory.wfFrom_mono {lo lo' : Nat} (h : lo' ≤ lo) {m : Memory} (hm : Memory.wfFrom lo m = true) :
    Memory.wfFrom lo' m = true := by
  cases m with
  | nil => rfl
  | cons e m =>
    obtain ⟨k, w⟩ := e
    simp only [Memory.wfFrom, Bool.and_eq_true, decide_eq_true_eq] at hm ⊢
    exact ⟨⟨by omega, hm.1.2⟩, hm.2⟩

theorem Memory.wfFrom_insert {lo a : Nat} (v : Byte) {m : Memory} (hlo : lo ≤ a) (ha : a < Config.fbSize)
    (hm : Memory.wfFrom lo m = true) : Memory.wfFrom lo (Memory.insert a v m) = true := by
  induction m generalizing lo with
  | nil => simp only [Memory.insert, Memory.wfFrom, hlo, ha]; decide
  | cons e m ih =>
    obtain ⟨k, w⟩ := e
    simp only [Memory.wfFrom, Bool.and_eq_true, decide_eq_true_eq] at hm
    obtain ⟨⟨h1, h2⟩, h3⟩ := hm
    simp only [Memory.insert]
    split
    · simp only [Memory.wfFrom, Bool.and_eq_true, decide_eq_true_eq]
      exact ⟨⟨hlo, ha⟩, ⟨by omega, h2⟩, h3⟩
    · split
      · rename_i _ h; subst h
        simp only [Memory.wfFrom, Bool.and_eq_true, decide_eq_true_eq]
        exact ⟨⟨h1, h2⟩, h3⟩
      · simp only [Memory.wfFrom, Bool.and_eq_true, decide_eq_true_eq]
        exact ⟨⟨h1, h2⟩, ih (by omega) h3⟩

/-- A write keeps the canonical form. -/
theorem Memory.wf_insert {a : Nat} (v : Byte) {m : Memory} (ha : a < Config.fbSize) (hm : Memory.wf m = true) :
    Memory.wf (Memory.insert a v m) = true :=
  Memory.wfFrom_insert v (Nat.zero_le a) ha hm

/-- Every memory operation of the machine keeps the canonical form. -/
theorem State.writeFb_wf {s : State} (a : Nat) (v : Byte) (h : Memory.wf s.fb = true) :
    Memory.wf (s.writeFb a v).fb = true := by
  by_cases ha : a < Config.fbSize
  · rw [State.writeFb_of_lt v ha]; exact Memory.wf_insert v ha h
  · rw [State.writeFb_of_ge v ha]; exact h

theorem Memory.wf_nil : Memory.wf [] = true := rfl

theorem State.reset_wf : Memory.wf State.reset.fb = true := rfl

theorem Memory.lookup_of_lt {lo a : Nat} {m : Memory} (hm : Memory.wfFrom lo m = true) (h : a < lo) :
    Memory.lookup m a = none := by
  induction m generalizing lo with
  | nil => rfl
  | cons e m ih =>
    obtain ⟨k, w⟩ := e
    simp only [Memory.wfFrom, Bool.and_eq_true, decide_eq_true_eq] at hm
    have hk : k ≠ a := by omega
    simp only [Memory.lookup, hk, if_false]
    exact ih hm.2 (by omega)

/-- Canonical memories with the same written bytes are the same list. -/
theorem Memory.ext_of_wfFrom {lo : Nat} {m n : Memory} (hm : Memory.wfFrom lo m = true) (hn : Memory.wfFrom lo n = true)
    (h : ∀ a, Memory.lookup m a = Memory.lookup n a) : m = n := by
  induction m generalizing lo n with
  | nil =>
    cases n with
    | nil => rfl
    | cons e n =>
      have := h e.1
      simp [Memory.lookup] at this
  | cons e m ih =>
    obtain ⟨k, w⟩ := e
    cases n with
    | nil =>
      have := h k
      simp [Memory.lookup] at this
    | cons e' n =>
      obtain ⟨k', w'⟩ := e'
      simp only [Memory.wfFrom, Bool.and_eq_true, decide_eq_true_eq] at hm hn
      have hk : k = k' := by
        rcases Nat.lt_trichotomy k k' with hlt | heq | hgt
        · have := h k
          rw [Memory.lookup, if_pos rfl, Memory.lookup, if_neg (by omega), Memory.lookup_of_lt hn.2 (by omega)] at this
          simp at this
        · exact heq
        · have := h k'
          rw [Memory.lookup, if_neg (by omega), Memory.lookup_of_lt hm.2 (by omega), Memory.lookup, if_pos rfl] at this
          simp at this
      subst hk
      have hw : w = w' := by
        have := h k
        simpa [Memory.lookup] using this
      subst hw
      have : m = n := by
        apply ih hm.2 hn.2
        intro a
        by_cases ha : k = a
        · subst ha
          rw [Memory.lookup_of_lt hm.2 (by omega), Memory.lookup_of_lt hn.2 (by omega)]
        · have := h a
          simpa [Memory.lookup, ha] using this
      rw [this]

theorem Memory.ext_of_wf {m n : Memory} (hm : Memory.wf m = true) (hn : Memory.wf n = true)
    (h : ∀ a, Memory.lookup m a = Memory.lookup n a) : m = n :=
  Memory.ext_of_wfFrom hm hn h

end Sys2Proof.Machine
end

