-- ==== Sys2Proof/Laws/Operands.lean ====
section
/-! SUPPORT. The operand functions as arithmetic on naturals, and the operation of each stage. -/

namespace Sys2Proof.Machine

/-! ## Lengths -/

/-- A header lacks bytes exactly when it is longer than what remains (20_memory.md R75). -/
@[simp] theorem State.lacks_iff (s : State) (n : Nat) : s.lacks n = true ↔ s.avail < n := by
  simp [State.lacks, exceeds]

theorem State.lacks_false_iff (s : State) (n : Nat) : s.lacks n = false ↔ n ≤ s.avail := by
  simp [State.lacks, exceeds]

/-- A length in bytes is four times its nibble (30_encoding.md R109, R111). -/
theorem lenBytes_toNat (n : BitVec 4) : (lenBytes n).toNat = 4 * n.toNat := by
  revert n; decide

@[simp] theorem nibbleTooSmall_iff (n : BitVec 4) : nibbleTooSmall n = true ↔ n.toNat < 5 := by
  simp [nibbleTooSmall]

theorem nibbleTooSmall_false_iff (n : BitVec 4) : nibbleTooSmall n = false ↔ 5 ≤ n.toNat := by
  simp [nibbleTooSmall]

theorem lenBytes_le (n : BitVec 4) : (lenBytes n).toNat ≤ 60 := by
  revert n; decide

/-- CURSOR plus a length that fits lies in the frame, so it needs no more than 16 bits (43_dissector.md R224). -/
theorem State.cursor_add_toNat {s : State} {n : Nat} (h : n ≤ s.avail) (hc : s.cursor.toNat ≤ s.frameLen.toNat) :
    (BitVec.ofNat 16 (s.cursor.toNat + n)).toNat = s.cursor.toNat + n := by
  have := s.frameLen.isLt
  simp only [State.avail] at h
  simp only [BitVec.toNat_ofNat]
  omega

theorem State.avail_le (s : State) : s.avail ≤ 65535 := by
  have := s.frameLen.isLt
  simp only [State.avail]; omega

/-! ## Reads see only FB -/

theorem State.memRead2_congr {s t : State} {a : Nat} (h : ∀ b, a ≤ b → b < a + 2 → s.fbByte b = t.fbByte b) :
    s.memRead2 a = t.memRead2 a := by
  simp only [State.memRead2, h a (by omega) (by omega), h (a + 1) (by omega) (by omega)]

theorem State.memRead4_congr {s t : State} {a : Nat} (h : ∀ b, a ≤ b → b < a + 4 → s.fbByte b = t.fbByte b) :
    s.memRead4 a = t.memRead4 a := by
  simp only [State.memRead4, h a (by omega) (by omega), h (a + 1) (by omega) (by omega), h (a + 2) (by omega) (by omega),
    h (a + 3) (by omega) (by omega)]

theorem State.memBytes4_congr {s t : State} {a : Nat} (h : ∀ b, a ≤ b → b < a + 4 → s.fbByte b = t.fbByte b) :
    s.memBytes4 a = t.memBytes4 a := by
  simp only [State.memBytes4, h a (by omega) (by omega), h (a + 1) (by omega) (by omega), h (a + 2) (by omega) (by omega),
    h (a + 3) (by omega) (by omega)]

theorem State.memBytes6_congr {s t : State} {a : Nat} (h : ∀ b, a ≤ b → b < a + 6 → s.fbByte b = t.fbByte b) :
    s.memBytes6 a = t.memBytes6 a := by
  simp only [State.memBytes6, h a (by omega) (by omega), h (a + 1) (by omega) (by omega), h (a + 2) (by omega) (by omega),
    h (a + 3) (by omega) (by omega), h (a + 4) (by omega) (by omega), h (a + 5) (by omega) (by omega)]

/-! ## The operation of each stage -/

theorem State.engineOp_idle {s : State} (h : s.stage = .idle) : s.engineOp = none := by
  simp only [State.engineOp, State.selector, h]

theorem State.engineOp_done {s : State} (h : s.stage = .done) : s.engineOp = none := by
  simp only [State.engineOp, State.selector, h]

theorem State.engineOp_eth {s : State} (h : s.stage = .eth) : s.engineOp = some .ethParse := by
  simp only [State.engineOp, State.selector, h, decodeSelector_append]
  simp

/-- Stage NET dispatch (40_ethernet.md R144). -/
theorem State.engineOp_net {s : State} (h : s.stage = .net) :
    s.engineOp = if s.results.ethType = 0x0800#16 then some .ipv4Parse else some (.netUnrecognized s.results.ethType) := by
  simp only [State.engineOp, State.selector, h, decodeSelector_append]
  simp

/-- The zero-extended protocol equals a code below 0x0100 exactly when the protocol does. -/
theorem setWidth_eq_iff (p : Byte) (n : Nat) (hn : n < 256) : p.setWidth 16 = BitVec.ofNat 16 n ↔ p = BitVec.ofNat 8 n := by
  constructor
  · intro h
    have := congrArg BitVec.toNat h
    apply BitVec.eq_of_toNat_eq
    have hp := p.isLt
    simp only [BitVec.toNat_setWidth, BitVec.toNat_ofNat] at this ⊢
    omega
  · intro h
    have := congrArg BitVec.toNat h
    apply BitVec.eq_of_toNat_eq
    have hp := p.isLt
    simp only [BitVec.toNat_setWidth, BitVec.toNat_ofNat] at this ⊢
    omega

/-- Stage TRN dispatch (42_transport.md R180). -/
theorem State.engineOp_trn {s : State} (h : s.stage = .trn) :
    s.engineOp =
      if s.results.ipProto = 1#8 then some .icmpParse
      else if s.results.ipProto = 6#8 then some .tcpParse
      else if s.results.ipProto = 17#8 then some .udpParse
      else some (.trnUnrecognized (s.results.ipProto.setWidth 16)) := by
  simp only [State.engineOp, State.selector, h, decodeSelector_append, setWidth_eq_iff _ 1 (by decide),
    setWidth_eq_iff _ 6 (by decide), setWidth_eq_iff _ 17 (by decide)]
  simp

/-! ## Register map -/

/-- No two registers stand at one offset (10_state.md R49). -/
theorem HostReg.offset_injective (r r' : HostReg) (h : r.offset = r'.offset) : r = r' := by
  cases r <;> cases r' <;> first | rfl | (exact absurd h (by decide))

/-- Every register is found at its offset. -/
@[simp] theorem regAt_offset (r : HostReg) : regAt r.offset = some r := by
  cases r <;> rfl

/-- A read at a register's offset gives the register's value. -/
@[simp] theorem State.readReg_offset (s : State) (r : HostReg) : s.readReg r.offset = s.regValue r := by
  simp only [State.readReg, regAt_offset]

/-- A read where no register stands gives 0 (10_state.md R50). -/
theorem State.readReg_reserved (s : State) {o : Half} (h : ∀ r : HostReg, r.offset ≠ o) : s.readReg o = 0 := by
  have : regAt o = none := by
    simp only [regAt, List.find?_eq_none]
    intro r _ hr
    exact h r (by simpa using hr)
  simp only [State.readReg, this]

end Sys2Proof.Machine
end

