-- ==== Sys2Proof/Laws/Headers.lean ====
section
/-! SUPPORT. The bit fields of headers as the numbers claims are stated with (30_encoding.md R108 to R112). -/

namespace Sys2Proof.Machine

theorem highNibble_toNat (b : Byte) : (b.extractLsb' 4 4).toNat = b.toNat / 16 := by
  revert b; decide

theorem lowNibble_toNat (b : Byte) : (b.extractLsb' 0 4).toNat = b.toNat % 16 := by
  revert b; decide

theorem State.ihlOf_toNat (s : State) : (ihlOf s.ipv4FirstByte).toNat = s.ihl := lowNibble_toNat _

theorem State.versionOf_toNat (s : State) : (versionOf s.ipv4FirstByte).toNat = s.version := highNibble_toNat _

theorem State.ihl_lt (s : State) : s.ihl < 16 := Nat.mod_lt _ (by decide)

theorem State.version_lt (s : State) : s.version < 16 := by
  have := (s.fbByte s.cursor.toNat).isLt
  simp only [State.version]; omega

/-- The version warning as a comparison of numbers (41_ipv4.md R162). -/
theorem State.versionMismatch_eq (s : State) : versionMismatch s.ipv4FirstByte = decide (s.version ≠ 4) := by
  rw [Bool.eq_iff_iff, versionMismatch, bne_iff_ne, decide_eq_true_eq, ← State.versionOf_toNat]
  exact not_congr (BitVec.toNat_inj (y := 4#4)).symm

/-- The data offset lies in the high nibble of the word's first byte. -/
theorem dataOffsetOf_append (hi lo : Byte) : dataOffsetOf (hi ++ lo) = hi.extractLsb' 4 4 := by
  ext i hi'
  simp only [dataOffsetOf, BitVec.getElem_extractLsb', BitVec.getLsbD_append]
  rw [if_neg (by omega)]
  congr 1
  omega

theorem State.dataOffsetOf_toNat (s : State) : (dataOffsetOf s.tcpWord).toNat = s.dataOffset := by
  rw [State.tcpWord, State.memRead2, dataOffsetOf_append, highNibble_toNat]
  rfl

theorem State.dataOffset_lt (s : State) : s.dataOffset < 16 := by
  have := (s.fbByte (s.cursor.toNat + 12)).isLt
  simp only [State.dataOffset]; omega

/-- The six flags lie in the word's second byte (30_encoding.md R105). -/
theorem tcpFlagsOf_append (hi lo : Byte) : tcpFlagsOf (hi ++ lo) = lo.setWidth 6 := by
  ext i hi'
  simp only [tcpFlagsOf, BitVec.getElem_extractLsb', BitVec.getLsbD_append, BitVec.getElem_setWidth]
  rw [if_pos (by omega), Nat.zero_add]

end Sys2Proof.Machine
end

