-- ==== Sys2Proof/Laws/PerInstr.lean ====
section
/-! SUPPORT. The family TableRow: the word of a well-formed operation meets its row of spec/opcode_table.json. -/

/-- The match and mask of an operation's row in spec/opcode_table.json, on the word's low 19 bits. -/
def Sys2Proof.Instr.tableRow : Sys2Proof.Instr → BitVec 19 × BitVec 19
  | .ethParse => (0x10000, 0x70000)
  | .ipv4Parse => (0x20800, 0x7FFFF)
  | .netUnrecognized _ => (0x20000, 0x70000)
  | .icmpParse => (0x30001, 0x7FFFF)
  | .tcpParse => (0x30006, 0x7FFFF)
  | .udpParse => (0x30011, 0x7FFFF)
  | .trnUnrecognized _ => (0x30000, 0x70000)
  | .hostStart _ => (0x00000, 0x1FFFF)
  | .hostWriteFb _ _ => (0x10000, 0x10000)
  | .hostWriteFrameLen _ => (0x00008, 0x1FFFF)
  | .hostReadReg _ => (0x00000, 0x10003)
  | .hostReadFb _ => (0x10000, 0x10000)
  | .hostWriteIgnored _ => (0x00000, 0x00000)

namespace Sys2Proof.Laws.TableRow

open Sys2Proof

/-- The word's low 19 bits under the row's mask are the row's match value. -/
def Statement (i : Instr) : Prop :=
  i.wf = true → (encodeWord i).extractLsb' 0 19 &&& i.tableRow.2 = i.tableRow.1

/-- The low 19 bits of a bare table word. -/
theorem low_tableWord (sel : BitVec 19) : (tableWord sel).extractLsb' 0 19 = sel := by
  apply BitVec.eq_of_toNat_eq
  simp [tableWord, Nat.mod_eq_of_lt sel.isLt]

/-- The low 19 bits of an access word are those of its offset. -/
theorem low_accessWord (a : BusAccess) : (accessWord a).extractLsb' 0 19 = a.offset.extractLsb' 0 19 := by
  obtain ⟨dir, width, offset⟩ := a
  cases dir <;> exact BitVec.extractLsb'_append_eq_of_add_le (by decide)

/-- An FB-window offset is the address under the stage-like field 1. -/
theorem fbOffset_eq (a : Half) : fbOffset a = 0#13 ++ (1#3 ++ a) := by
  apply BitVec.eq_of_toNat_eq
  have h := Nat.shiftLeft_add_eq_or_of_lt (i := 16) a.isLt 1
  have ha := a.isLt
  have e : (0#13 ++ (1#3 ++ a)).toNat = 65536 + a.toNat := by
    simp only [BitVec.toNat_append, BitVec.toNat_ofNat]
    rw [show 0 % 2 ^ 13 = 0 from rfl, Nat.zero_shiftLeft, Nat.zero_or, show 1 % 2 ^ 3 = 1 from rfl, ← h]
    rfl
  rw [e]
  simp only [fbOffset, BitVec.toNat_add, BitVec.toNat_ofNat, BitVec.toNat_setWidth]
  omega

/-- Bit 16 of an FB-window offset is set. -/
theorem low_fbOffset (a : Half) : (fbOffset a).extractLsb' 0 19 &&& 0x10000#19 = 0x10000#19 := by
  rw [fbOffset_eq, BitVec.extractLsb'_append_eq_right, show (0x10000#19 : BitVec 19) = 1#3 ++ 0#16 from by decide,
    BitVec.and_append, selector_eq_iff]
  exact ⟨by decide, BitVec.and_zero⟩

theorem ethParse : Statement .ethParse := by
  intro _; decide

theorem ipv4Parse : Statement .ipv4Parse := by
  intro _; decide

theorem netUnrecognized (code : Half) : Statement (.netUnrecognized code) := by
  intro _
  simp only [encodeWord, low_tableWord]
  exact and_stageMask 2#3 code

theorem icmpParse : Statement .icmpParse := by
  intro _; decide

theorem tcpParse : Statement .tcpParse := by
  intro _; decide

theorem udpParse : Statement .udpParse := by
  intro _; decide

theorem trnUnrecognized (code : Half) : Statement (.trnUnrecognized code) := by
  intro _
  simp only [encodeWord, low_tableWord]
  exact and_stageMask 3#3 code

theorem hostStart (data : Word) : Statement (.hostStart data) := by
  intro _
  simp only [encodeWord, low_accessWord, Instr.tableRow]
  decide

theorem hostWriteFb (a : Half) (v : Byte) : Statement (.hostWriteFb a v) := by
  intro _
  simp only [encodeWord, low_accessWord]
  exact low_fbOffset a

theorem hostWriteFrameLen (data : Word) : Statement (.hostWriteFrameLen data) := by
  intro _
  simp only [encodeWord, low_accessWord, Instr.tableRow]
  decide

theorem hostReadReg (offset : Half) : Statement (.hostReadReg offset) := by
  intro h
  simp only [encodeWord, low_accessWord]
  have h4 : offset.toNat % 4 = 0 := by simpa [Instr.wf] using h
  have e : (BitVec.setWidth 32 offset).extractLsb' 0 19 = 0#3 ++ offset := by
    apply BitVec.eq_of_toNat_eq
    have ho := offset.isLt
    simp only [BitVec.extractLsb'_toNat, BitVec.toNat_setWidth, BitVec.toNat_append, BitVec.toNat_ofNat, Nat.shiftLeft_eq]
    simp
    omega
  have z : offset &&& 3#16 = 0#16 := by
    apply BitVec.eq_of_toNat_eq
    have := Nat.and_two_pow_sub_one_eq_mod offset.toNat 2
    simpa [h4] using this
  show _ &&& 0x10003#19 = 0#19
  rw [e, show (0x10003#19 : BitVec 19) = 1#3 ++ 3#16 from by decide, BitVec.and_append, z]
  decide

theorem hostReadFb (a : Half) : Statement (.hostReadFb a) := by
  intro _
  simp only [encodeWord, low_accessWord]
  exact low_fbOffset a

theorem hostWriteIgnored (access : BusAccess) : Statement (.hostWriteIgnored access) := by
  intro _
  exact BitVec.and_zero

end Sys2Proof.Laws.TableRow
end

