-- ==== Sys2Proof/Laws/Step.lean ====
section
/-! SUPPORT. What a step can be: the inversion lemmas of step, of one event and of one engine step, from which the invariants of
the machine are derived. -/

namespace Sys2Proof.Machine

/-- A step is an engine step when nothing is scheduled, else the next event. -/
theorem step_cases {s t : State} (h : step s = .next t) :
    (s.schedule = [] ∧ engineStep s = .next t) ∨
      ∃ e rest, s.schedule = e :: rest ∧ applyEvent e { s with schedule := rest } = .next t := by
  unfold step at h
  split at h
  · rename_i hs; exact .inl ⟨hs, h⟩
  · rename_i e rest hs; exact .inr ⟨e, rest, hs, h⟩

/-- One event: an engine step, a host operation, reset or power-up. -/
theorem applyEvent_cases {e : Event} {s t : State} (h : applyEvent e s = .next t) :
    (e = .engine ∧ engineStep s = .next t) ∨ (∃ a, e = .bus a ∧ exec (decodeAccess a) s = .next t) ∨
      (e = .reset ∧ t = s.resetBlock) ∨ (e = .powerUp ∧ t = s.powerUpBlock) := by
  cases e with
  | engine => exact .inl ⟨rfl, h⟩
  | bus a => exact .inr (.inl ⟨a, rfl, h⟩)
  | reset => simp only [applyEvent, Host.Outcome.next.injEq] at h; exact .inr (.inr (.inl ⟨rfl, h.symm⟩))
  | powerUp => simp only [applyEvent, Host.Outcome.next.injEq] at h; exact .inr (.inr (.inr ⟨rfl, h.symm⟩))

/-- One engine step, stage by stage: at IDLE and DONE nothing, at ETH ETH_PARSE, at NET IPV4_PARSE or NET_UNRECOGNIZED, at TRN
the transport operation of IP_PROTO. -/
theorem engineStep_cases {s t : State} (h : engineStep s = .next t) :
    (s.busy = false ∧ t = s) ∨ (s.stage = .eth ∧ execEthParse s = .next t) ∨
      (s.stage = .net ∧ s.results.ethType = 0x0800#16 ∧ execIpv4Parse s = .next t) ∨
      (s.stage = .net ∧ s.results.ethType ≠ 0x0800#16 ∧ execNetUnrecognized s = .next t) ∨
      (s.stage = .trn ∧ s.results.ipProto = 1#8 ∧ execIcmpParse s = .next t) ∨
      (s.stage = .trn ∧ s.results.ipProto = 6#8 ∧ execTcpParse s = .next t) ∨
      (s.stage = .trn ∧ s.results.ipProto = 17#8 ∧ execUdpParse s = .next t) ∨
      (s.stage = .trn ∧ s.results.ipProto ∉ [1#8, 6#8, 17#8] ∧ execTrnUnrecognized s = .next t) := by
  unfold engineStep at h
  cases hs : s.stage with
  | idle =>
    rw [State.engineOp_idle hs] at h
    exact .inl ⟨by simp [State.busy, hs, Stage.busy], by simpa using h.symm⟩
  | done =>
    rw [State.engineOp_done hs] at h
    exact .inl ⟨by simp [State.busy, hs, Stage.busy], by simpa using h.symm⟩
  | eth =>
    rw [State.engineOp_eth hs] at h
    exact .inr (.inl ⟨rfl, h⟩)
  | net =>
    rw [State.engineOp_net hs] at h
    by_cases he : s.results.ethType = 0x0800#16
    · rw [if_pos he] at h; exact .inr (.inr (.inl ⟨rfl, he, h⟩))
    · rw [if_neg he] at h; exact .inr (.inr (.inr (.inl ⟨rfl, he, h⟩)))
  | trn =>
    rw [State.engineOp_trn hs] at h
    by_cases h1 : s.results.ipProto = 1#8
    · rw [if_pos h1] at h; exact .inr (.inr (.inr (.inr (.inl ⟨rfl, h1, h⟩))))
    rw [if_neg h1] at h
    by_cases h6 : s.results.ipProto = 6#8
    · rw [if_pos h6] at h; exact .inr (.inr (.inr (.inr (.inr (.inl ⟨rfl, h6, h⟩)))))
    rw [if_neg h6] at h
    by_cases h17 : s.results.ipProto = 17#8
    · rw [if_pos h17] at h; exact .inr (.inr (.inr (.inr (.inr (.inr (.inl ⟨rfl, h17, h⟩))))))
    rw [if_neg h17] at h
    exact .inr (.inr (.inr (.inr (.inr (.inr (.inr ⟨rfl, by simp [h1, h6, h17], h⟩))))))

/-! ## What each operation can answer -/

theorem execEthParse_cases {s t : State} (h : execEthParse s = .next t) :
    (s.avail < 14 ∧ t = s.abort .truncatedInput .eth) ∨
      (14 ≤ s.avail ∧ t = { s with
        results := { s.results with
          ethDst := s.memBytes6 s.cursor.toNat
          ethSrc := s.memBytes6 (s.cursor.toNat + 6)
          ethType := s.memRead2 (s.cursor.toNat + 12) }
        cursor := BitVec.ofNat 16 (s.cursor.toNat + 14)
        stage := .net }) := by
  unfold execEthParse at h
  split at h
  · rename_i hl; exact .inl ⟨(State.lacks_iff s 14).1 hl, by simpa using h.symm⟩
  · rename_i hl; exact .inr ⟨Nat.le_of_not_lt fun hx => hl ((State.lacks_iff s 14).2 hx), by simpa using h.symm⟩

theorem execIpv4Parse_cases {s t : State} (h : execIpv4Parse s = .next t) :
    (s.avail < 20 ∧ t = s.abort .truncatedInput .ipv4) ∨
      (20 ≤ s.avail ∧ (ihlOf s.ipv4FirstByte).toNat < 5 ∧ t = s.abort .badHeaderLength .ipv4) ∨
      (20 ≤ s.avail ∧ 5 ≤ (ihlOf s.ipv4FirstByte).toNat ∧ s.avail < 4 * (ihlOf s.ipv4FirstByte).toNat ∧
        t = s.abort .truncatedInput .ipv4) ∨
      (5 ≤ (ihlOf s.ipv4FirstByte).toNat ∧ 4 * (ihlOf s.ipv4FirstByte).toNat ≤ s.avail ∧ t = ipv4Accept s) := by
  unfold execIpv4Parse at h
  split at h
  · rename_i hl; exact .inl ⟨(State.lacks_iff s 20).1 hl, by simpa using h.symm⟩
  rename_i hl
  replace hl := Nat.le_of_not_lt fun hx => hl ((State.lacks_iff s 20).2 hx)
  split at h
  · rename_i hn; exact .inr (.inl ⟨hl, (nibbleTooSmall_iff _).1 hn, by simpa using h.symm⟩)
  rename_i hn
  rw [nibbleTooSmall_iff] at hn
  split at h
  · rename_i hx
    rw [State.lacks_iff, lenBytes_toNat] at hx
    exact .inr (.inr (.inl ⟨hl, by omega, hx, by simpa using h.symm⟩))
  · rename_i hx
    rw [State.lacks_iff, lenBytes_toNat] at hx
    exact .inr (.inr (.inr ⟨by omega, by omega, by simpa using h.symm⟩))

theorem execIcmpParse_cases {s t : State} (h : execIcmpParse s = .next t) :
    (s.avail < 4 ∧ t = s.abort .truncatedInput .icmp) ∨
      (4 ≤ s.avail ∧ t = State.finish .icmp (s.cursor.toNat + 4) (s.avail - 4) { s with
        results := { s.results with
          icmpType := s.memRead1 s.cursor.toNat
          icmpCode := s.memRead1 (s.cursor.toNat + 1)
          icmpCsum := s.memRead2 (s.cursor.toNat + 2) } }) := by
  unfold execIcmpParse at h
  split at h
  · rename_i hl; exact .inl ⟨(State.lacks_iff s 4).1 hl, by simpa using h.symm⟩
  · rename_i hl; exact .inr ⟨Nat.le_of_not_lt fun hx => hl ((State.lacks_iff s 4).2 hx), by simpa using h.symm⟩

theorem execTcpParse_cases {s t : State} (h : execTcpParse s = .next t) :
    (s.avail < 14 ∧ t = s.abort .truncatedInput .tcp) ∨
      (14 ≤ s.avail ∧ (dataOffsetOf s.tcpWord).toNat < 5 ∧ t = s.abort .badHeaderLength .tcp) ∨
      (14 ≤ s.avail ∧ 5 ≤ (dataOffsetOf s.tcpWord).toNat ∧ s.avail < 4 * (dataOffsetOf s.tcpWord).toNat ∧
        t = s.abort .truncatedInput .tcp) ∨
      (5 ≤ (dataOffsetOf s.tcpWord).toNat ∧ 4 * (dataOffsetOf s.tcpWord).toNat ≤ s.avail ∧ t = tcpAccept s) := by
  unfold execTcpParse at h
  split at h
  · rename_i hl; exact .inl ⟨(State.lacks_iff s 14).1 hl, by simpa using h.symm⟩
  rename_i hl
  replace hl := Nat.le_of_not_lt fun hx => hl ((State.lacks_iff s 14).2 hx)
  split at h
  · rename_i hn; exact .inr (.inl ⟨hl, (nibbleTooSmall_iff _).1 hn, by simpa using h.symm⟩)
  rename_i hn
  rw [nibbleTooSmall_iff] at hn
  split at h
  · rename_i hx
    rw [State.lacks_iff, lenBytes_toNat] at hx
    exact .inr (.inr (.inl ⟨hl, by omega, hx, by simpa using h.symm⟩))
  · rename_i hx
    rw [State.lacks_iff, lenBytes_toNat] at hx
    exact .inr (.inr (.inr ⟨by omega, by omega, by simpa using h.symm⟩))

theorem execUdpParse_cases {s t : State} (h : execUdpParse s = .next t) :
    (s.avail < 8 ∧ t = s.abort .truncatedInput .udp) ∨
      (8 ≤ s.avail ∧ t = State.finish .udp (s.cursor.toNat + 8) (s.avail - 8) { s with
        results := { s.results with
          udpSport := s.memRead2 s.cursor.toNat
          udpDport := s.memRead2 (s.cursor.toNat + 2)
          udpLen := s.memRead2 (s.cursor.toNat + 4) } }) := by
  unfold execUdpParse at h
  split at h
  · rename_i hl; exact .inl ⟨(State.lacks_iff s 8).1 hl, by simpa using h.symm⟩
  · rename_i hl; exact .inr ⟨Nat.le_of_not_lt fun hx => hl ((State.lacks_iff s 8).2 hx), by simpa using h.symm⟩

/-- A host operation starts a dissection, writes one byte of FB, writes FRAME_LEN, sets the read data, or changes nothing; the
first three only when the block is not busy. -/
theorem exec_access_cases {a : BusAccess} {s t : State} (h : exec (decodeAccess a) s = .next t) :
    t = s ∨ (∃ v, t = { s with readData := v }) ∨ (s.busy = false ∧ t = s.startDissection) ∨
      (s.busy = false ∧ ∃ b v, t = s.writeFb b v) ∨ (s.busy = false ∧ ∃ n, t = { s with frameLen := n }) := by
  obtain ⟨dir, width, offset⟩ := a
  cases dir with
  | read =>
    simp only [decodeAccess] at h
    split at h
    · exact .inr (.inl ⟨_, by simpa [exec, execHostReadReg] using h.symm⟩)
    split at h
    · exact .inr (.inl ⟨_, by simpa [exec, execHostReadFb] using h.symm⟩)
    · exact .inr (.inl ⟨_, by simpa [exec, execHostWriteIgnored] using h.symm⟩)
  | write d =>
    simp only [decodeAccess] at h
    split at h
    · simp only [exec, execHostStart] at h
      split at h
      · exact .inl (by simpa using h.symm)
      · rename_i hb; exact .inr (.inr (.inl ⟨by simpa using hb, by simpa using h.symm⟩))
    split at h
    · simp only [exec, execHostWriteFrameLen] at h
      split at h
      · exact .inl (by simpa using h.symm)
      · rename_i hb; exact .inr (.inr (.inr (.inr ⟨by simpa using hb, _, by simpa using h.symm⟩)))
    split at h
    · simp only [exec, execHostWriteFb] at h
      split at h
      · exact .inl (by simpa using h.symm)
      · rename_i hb; exact .inr (.inr (.inr (.inl ⟨by simpa using hb, _, _, by simpa using h.symm⟩)))
    · exact .inl (by simpa [exec, execHostWriteIgnored] using h.symm)

end Sys2Proof.Machine
end

