-- ==== Sys2Proof/Laws/System.lean ====
section
/-! SUPPORT. Bus windows as arithmetic on naturals, and what a posted transaction leaves alone. -/

namespace Sys2Proof.Machine

/-- FP_BASE is the window's number times 0x20000 (20_memory.md R85). -/
theorem State.fpBase_toNat (s : State) : s.fpBase.toNat = s.fpWindow.toNat * 0x20000 := by
  unfold State.fpBase Config.fpBase
  rw [BitVec.toNat_append, Nat.shiftLeft_eq]
  simp

/-- The window is `[FP_BASE, FP_BASE + 0x20000)` (20_memory.md R85). -/
theorem State.inWindow_iff (s : State) (address : Word) :
    s.inWindow address = true ↔ s.fpBase.toNat ≤ address.toNat ∧ address.toNat < s.fpBase.toNat + 0x20000 := by
  have := s.fpBase_toNat
  have := s.fpWindow.isLt
  have := address.isLt
  unfold State.inWindow State.offsetOf
  simp only [decide_eq_true_eq, BitVec.toNat_sub]
  omega

@[simp] theorem State.posted_fpWindow (dir : Direction) (width : Byte) (address : Word) (s : State) :
    (s.posted dir width address).fpWindow = s.fpWindow := by
  unfold State.posted; split <;> rfl

end Sys2Proof.Machine
end

