-- ==== Sys2Proof/Tests/Slice0.lean ====
section
/-! SUPPORT. Tests of the model, expected values from spec/95_test_vectors.md and the tables of spec/, and the witnesses that meet
the hypotheses of the statements. -/

namespace Sys2Proof.Tests

open Sys2Proof Sys2Proof.Machine

/-! ## Small states -/

/-- A run of bytes at rising addresses. -/
def cells (a : Nat) : List Byte → Memory
  | [] => []
  | b :: bytes => (a, b) :: cells (a + 1) bytes

/-- A 14-byte Ethernet header with the addresses of frame A. -/
def eth (hi lo : Byte) : List Byte := [0x00, 0x11, 0x22, 0x33, 0x44, 0x55, 0x66, 0x77, 0x88, 0x99, 0xAA, 0xBB, hi, lo]

/-- The IPv4 header of the base frames, with its first byte and protocol. -/
def ip (b0 proto : Byte) : List Byte :=
  [b0, 0x00, 0x00, 0x28, 0x00, 0x01, 0x00, 0x00, 0x40, proto, 0x00, 0x00, 0xC0, 0xA8, 0x00, 0x01, 0xC0, 0xA8, 0x00, 0x02]

/-- The TCP header of frame A, with its offset and flags word. -/
def tcp (hi lo : Byte) : List Byte :=
  [0x04, 0xD2, 0x00, 0x50, 0x00, 0x00, 0x00, 0x01, 0x00, 0x00, 0x00, 0x00, hi, lo, 0xFF, 0xFF, 0x00, 0x00, 0x00, 0x00]

/-- Frame A. -/
def frameA : List Byte := eth 0x08 0x00 ++ ip 0x45 0x06 ++ tcp 0x50 0x02

/-- Frame B. -/
def frameB : List Byte :=
  eth 0x08 0x00 ++ ip 0x45 0x11 ++ [0x00, 0x35, 0xD4, 0x31, 0x00, 0x00, 0x00, 0x00, 0xDE, 0xAD, 0xBE, 0xEF]

/-- Frame D. -/
def frameD : List Byte := eth 0x08 0x00 ++ ip 0x45 0x01 ++ [0x08, 0x00, 0xF7, 0xFF, 0x00, 0x00, 0x00, 0x00]

/-- A block holding bytes from address 0, at a stage and CURSOR, with a FRAME_LEN. -/
def block (stage : Stage) (cursor len : Half) (bytes : List Byte) : State :=
  { State.reset with fb := cells 0 bytes, stage := stage, cursor := cursor, frameLen := len }

/-- The same block with its dispatch registers. -/
def dispatched (stage : Stage) (cursor len : Half) (bytes : List Byte) (etherType : Half) (hlen : BitVec 6) (proto : Byte) : State :=
  { block stage cursor len bytes with results := { Results.zero with ethType := etherType, ipHlen := hlen, ipProto := proto } }

/-- The state a step answers. -/
def after (r : Res) : State :=
  match r with
  | .next t => t
  | .fault _ => State.reset
  | .refused _ => State.reset

/-- At DONE with a result of 42_transport.md R194: protocol 2, 26 bytes left. -/
def finished : State :=
  { dispatched .done 34 60 frameA 0x0800 20 2 with
    outcome := .ipv4Unrecognized
    results := { Results.zero with ethType := 0x0800, ipHlen := 20, ipProto := 2, payloadOff := 34, payloadLen := 26 } }

/-! ## Ill-formed terms are refused (WellFormed) -/

theorem test_wf_net_code : (Instr.netUnrecognized 0x0800).wf = false := by decide
theorem test_wf_trn_code :
    ([1, 6, 17] : List Half).all (fun c => !(Instr.trnUnrecognized c).wf) = true := by decide
theorem test_wf_start_bit : (Instr.hostStart 0xFFFFFFFE).wf = false := by decide
theorem test_wf_write_fb_address : (Instr.hostWriteFb 0xFFFF 0).wf = false := by decide
theorem test_wf_read_fb_address : (Instr.hostReadFb 0xFFFF).wf = false := by decide
theorem test_wf_read_reg_alignment : (Instr.hostReadReg 0x006).wf = false := by decide
theorem test_wf_ignored_start : (Instr.hostWriteIgnored ⟨.write 1, 32, 0⟩).wf = false := by decide
theorem test_wf_ignored_frame_len : (Instr.hostWriteIgnored ⟨.write 0, 32, 8⟩).wf = false := by decide
theorem test_wf_ignored_fb : (Instr.hostWriteIgnored ⟨.write 0, 8, 0x1FFFE⟩).wf = false := by decide
theorem test_wf_ignored_read_reg : (Instr.hostWriteIgnored ⟨.read, 32, 0xFFFC⟩).wf = false := by decide
theorem test_wf_ignored_read_fb : (Instr.hostWriteIgnored ⟨.read, 8, 0x10000⟩).wf = false := by decide

/-! ## Written-out words decode to what they stand for (30_encoding.md R117, V-SEL-1 to V-SEL-13; 43_dissector.md R217 to R222) -/

theorem test_decode_eth_parse : decode [0x00, 0x00, 0x01, 0, 0, 0, 0, 0, 0, 0] = .ok (.ethParse, []) := by decide
theorem test_decode_ipv4_parse : decode [0x00, 0x08, 0x02, 0, 0, 0, 0, 0, 0, 0] = .ok (.ipv4Parse, []) := by decide
theorem test_decode_net_unrecognized :
    decode [0x08, 0x00, 0x02, 0, 0, 0, 0, 0, 0, 0] = .ok (.netUnrecognized 0x0008, []) := by decide
theorem test_decode_icmp_parse : decode [0x01, 0x00, 0x03, 0, 0, 0, 0, 0, 0, 0] = .ok (.icmpParse, []) := by decide
theorem test_decode_tcp_parse : decode [0x06, 0x00, 0x03, 0, 0, 0, 0, 0, 0, 0] = .ok (.tcpParse, []) := by decide
theorem test_decode_udp_parse : decode [0x11, 0x00, 0x03, 0, 0, 0, 0, 0, 0, 0] = .ok (.udpParse, []) := by decide
theorem test_decode_trn_unrecognized :
    decode [0x10, 0x00, 0x03, 0, 0, 0, 0, 0, 0, 0] = .ok (.trnUnrecognized 0x0010, []) := by decide
theorem test_decode_host_start :
    decode [0, 0, 0, 0, 2, 32, 0xFF, 0xFF, 0xFF, 0xFF] = .ok (.hostStart 0xFFFFFFFF, []) := by decide
theorem test_decode_host_write_fb :
    decode [0xFE, 0xFF, 0x01, 0, 2, 8, 0x7E, 0, 0, 0] = .ok (.hostWriteFb 0xFFFE 0x7E, []) := by decide
theorem test_decode_host_write_frame_len :
    decode [8, 0, 0, 0, 2, 32, 0x36, 0x00, 0x01, 0x00] = .ok (.hostWriteFrameLen 0x00010036, []) := by decide
theorem test_decode_host_read_reg : decode [0x98, 0, 0, 0, 1, 32, 0, 0, 0, 0] = .ok (.hostReadReg 0x098, []) := by decide
theorem test_decode_host_read_fb : decode [0x0C, 0x00, 0x01, 0, 1, 8, 0, 0, 0, 0] = .ok (.hostReadFb 12, []) := by decide
/-- V-HOST-6. -/
theorem test_decode_reserved_fb_write :
    decode [0xFF, 0xFF, 0x01, 0, 2, 8, 0x7E, 0, 0, 0] = .ok (.hostWriteIgnored ⟨.write 0x7E, 8, 0x1FFFF⟩, []) := by decide
/-- V-HOST-17. -/
theorem test_decode_ctrl_without_start :
    decode [0, 0, 0, 0, 2, 32, 2, 0, 0, 0] = .ok (.hostWriteIgnored ⟨.write 2, 32, 0⟩, []) := by decide
theorem test_decode_rejects :
    decode [0, 0, 1] = .error .shortInput ∧ decode [0, 0, 0, 0, 3, 0, 0, 0, 0, 0] = .error .reservedForm ∧
      decode [0, 0, 1, 0, 0, 8, 0, 0, 0, 0] = .error .reservedBits ∧ decode [0, 0, 4, 0, 0, 0, 0, 0, 0, 0] = .error .noTableRow := by
  decide
/-- Words of the opcode table, as the table numbers its bits. -/
theorem test_table_words :
    decodeTableWord 24 0x10000 = some .ethParse ∧ decodeTableWord 24 0x20800 = some .ipv4Parse ∧
      decodeTableWord 24 0x30011 = some .udpParse ∧ decodeTableWord 24 0x8 = some (.hostWriteFrameLen 0) := by decide

/-! ## One step of each operation -/

/-- V-ETH-1, first step. -/
theorem test_eth_parse_fields :
    (after (exec .ethParse (block .eth 0 54 frameA))).results.ethDst = 0x001122334455 ∧
      (after (exec .ethParse (block .eth 0 54 frameA))).results.ethSrc = 0x66778899AABB ∧
      (after (exec .ethParse (block .eth 0 54 frameA))).results.ethType = 0x0800 := by decide
/-- V-ETH-2: 13 bytes, STATUS 0x00001166. -/
theorem test_eth_parse_truncated : (after (exec .ethParse (block .eth 0 13 frameA))).statusWord = 0x00001166 := by decide
/-- V-ETH-4: residual 14 + 0, STATUS 0x00210012. -/
theorem test_net_unrecognized :
    (after (exec (.netUnrecognized 0x0806) (block .net 14 14 frameA))).results.payloadOff = 14 ∧
      (after (exec (.netUnrecognized 0x0806) (block .net 14 14 frameA))).statusWord = 0x00210012 := by decide
/-- V-IP-9: version 6 decodes with the warning. -/
theorem test_ipv4_parse_version :
    (after (exec .ipv4Parse (block .net 14 54 (eth 8 0 ++ ip 0x65 6)))).vmismatch = true ∧
      (after (exec .ipv4Parse (block .net 14 54 (eth 8 0 ++ ip 0x65 6)))).results.ipVersion = 6 ∧
      (after (exec .ipv4Parse (block .net 14 54 (eth 8 0 ++ ip 0x65 6)))).results.ipDst = 0xC0A80002 := by decide
/-- V-IP-3 and V-IP-5: IHL 4, STATUS 0x00002266; IHL 6 with 23 bytes, STATUS 0x00002166. -/
theorem test_ipv4_parse_lengths :
    (after (exec .ipv4Parse (block .net 14 54 (eth 8 0 ++ ip 0x44 6)))).statusWord = 0x00002266 ∧
      (after (exec .ipv4Parse (block .net 14 37 (eth 8 0 ++ ip 0x46 6)))).statusWord = 0x00002166 := by decide
/-- V-ICMP-1: the three fields, residual 38 + 4. -/
theorem test_icmp_parse :
    (after (exec .icmpParse (block .trn 34 42 frameD))).results.icmpType = 8 ∧
      (after (exec .icmpParse (block .trn 34 42 frameD))).results.icmpCsum = 0xF7FF ∧
      (after (exec .icmpParse (block .trn 34 42 frameD))).results.payloadLen = 4 := by decide
/-- V-ICMP-2. -/
theorem test_icmp_parse_truncated : (after (exec .icmpParse (block .trn 34 37 frameD))).statusWord = 0x00003166 := by decide
/-- V-ETH-1, last step: ports, sequence, SYN only, residual 54 + 0. -/
theorem test_tcp_parse :
    (after (exec .tcpParse (block .trn 34 54 frameA))).results.tcpSport = 0x04D2 ∧
      (after (exec .tcpParse (block .trn 34 54 frameA))).results.tcpSeq = 1 ∧
      (after (exec .tcpParse (block .trn 34 54 frameA))).results.tcpFlags = 0x02 ∧
      (after (exec .tcpParse (block .trn 34 54 frameA))).results.payloadOff = 54 := by decide
/-- V-TCP-18 and V-TCP-19: with a nibble of 1, 14 bytes give BAD_HEADER_LENGTH and 13 bytes TRUNCATED_INPUT. -/
theorem test_tcp_parse_order :
    (after (exec .tcpParse (block .trn 34 48 (eth 8 0 ++ ip 0x45 6 ++ tcp 0x10 2)))).statusWord = 0x00004266 ∧
      (after (exec .tcpParse (block .trn 34 47 (eth 8 0 ++ ip 0x45 6 ++ tcp 0x10 2)))).statusWord = 0x00004166 := by decide
/-- V-UDP-1: declared length 0, residual 42 + 4. -/
theorem test_udp_parse :
    (after (exec .udpParse (block .trn 34 46 frameB))).results.udpDport = 0xD431 ∧
      (after (exec .udpParse (block .trn 34 46 frameB))).results.udpLen = 0 ∧
      (after (exec .udpParse (block .trn 34 46 frameB))).results.payloadOff = 42 ∧
      (after (exec .udpParse (block .trn 34 46 frameB))).results.payloadLen = 4 := by decide
/-- V-UDP-2. -/
theorem test_udp_parse_truncated : (after (exec .udpParse (block .trn 34 41 frameB))).statusWord = 0x00005166 := by decide
/-- 42_transport.md R194, example: residual 34 + 26. -/
theorem test_trn_unrecognized :
    (after (exec (.trnUnrecognized 2) (block .trn 34 60 frameA))).results.payloadLen = 26 ∧
      (after (exec (.trnUnrecognized 2) (block .trn 34 60 frameA))).statusWord = 0x00230022 := by decide
/-- V-HOST-3 and V-HOST-2. -/
theorem test_host_start :
    (after (exec (.hostStart 1) finished)).statusWord = 1 ∧ (after (exec (.hostStart 1) finished)).results = Results.zero ∧
      (after (exec (.hostStart 1) (block .net 14 54 frameA))).stage = .net := by decide
/-- V-HOST-4 and V-HOST-5. -/
theorem test_host_write_fb :
    (after (exec (.hostWriteFb 0 0xAA) (block .eth 0 54 [0x55]))).fbByte 0 = 0x55 ∧
      (after (exec (.hostWriteFb 65534 0x7E) State.reset)).fbByte 65534 = 0x7E := by decide
/-- V-HOST-7 and V-HOST-10. -/
theorem test_host_write_frame_len :
    (after (exec (.hostWriteFrameLen 0x00010036) State.reset)).frameLen = 54 ∧
      (after (exec (.hostWriteFrameLen 41) (block .trn 34 46 frameB))).frameLen = 46 := by decide
/-- V-HOST-20 and V-HOST-12. -/
theorem test_host_read_reg :
    (after (exec (.hostReadReg 0x020) (after (exec .ethParse (block .eth 0 54 frameA))))).readData = 0x00000011 ∧
      (after (exec (.hostReadReg 0x02C) (after (exec .ethParse (block .eth 0 54 frameA))))).readData = 0x8899AABB ∧
      (after (exec (.hostReadReg 0x01C) (block .eth 0 54 frameA))).readData = 0 := by decide
/-- V-HOST-19. -/
theorem test_host_read_fb : (after (exec (.hostReadFb 12) (block .net 14 54 frameA))).readData = 0x08 := by decide
/-- V-HOST-14: a 16-bit read of STATUS returns 0. -/
theorem test_host_ignored :
    (after (exec (decodeAccess ⟨.read, 16, 4⟩) { finished with readData := 7 })).readData = 0 := by decide
/-- V-HOST-22. -/
theorem test_reset_event :
    (after (applyEvent .reset (dispatched .net 14 54 frameA 0x0800 0 0))).statusWord = 0 ∧
      (after (applyEvent .reset (dispatched .net 14 54 frameA 0x0800 0 0))).results = Results.zero ∧
      (after (applyEvent .reset (dispatched .net 14 54 frameA 0x0800 0 0))).fbByte 1 = 0x11 := by decide
/-- The first step after reset runs a placed word. -/
theorem test_with_fetch_word :
    (after (step (State.reset.withFetchWord 24 0x10000))).statusWord = 0x00001166 ∧
      (after (step (State.reset.withFetchWord 24 0x20806))).outcome = .ethOnly ∧
      (after (step (State.reset.withFetchWord 24 0x0))).stage = .eth := by decide

/-! ## Notation and rendering -/

/-- 95_test_vectors.md section 0: frame B in the notation of 30_encoding.md R123 (its ignored IPv4 bytes 0). -/
theorem test_notation_udp :
    udpHeader 0x0035 0xD431 0 0 = [0x00, 0x35, 0xD4, 0x31, 0, 0, 0, 0] ∧ ethHeader 0x001122334455 0x66778899AABB 0x0800 = eth 8 0 := by
  decide
theorem test_notation_tcp :
    tcpHeader 0x04D2 0x0050 1 0 5 0x002 [0xFF, 0xFF] = tcp 0x50 0x02 := by decide
/-- P3: three bytes of `FB`, and START. -/
theorem test_notation_program :
    programEvents [.fb 1 [0xAA, 0xBB], .start] =
      [.bus ⟨.write 0xAA, 8, 0x10001⟩, .bus ⟨.write 0xBB, 8, 0x10002⟩, .bus ⟨.write 1, 32, 0⟩] := by decide
/-- R218 gives HOST_WRITE_FB addresses up to 65534; the byte after that stands at a reserved offset (10_state.md R49) and is ignored. -/
theorem test_notation_past_window :
    (programEvents [.fb 0xFFFE [0xAA, 0xBB]] = [.bus ⟨.write 0xAA, 8, 0x1FFFE⟩, .bus ⟨.write 0xBB, 8, 0x1FFFF⟩]) ∧
      decodeAccess ⟨.write 0xBB, 8, 0x1FFFF⟩ = .hostWriteIgnored ⟨.write 0xBB, 8, 0x1FFFF⟩ := by decide
/-- V-REN-1 and V-REN-5. -/
theorem test_render_mac :
    renderMac 0x001122334455 = "00:11:22:33:44:55".toList ∧ renderMac 0x0A0B0C0D0E0F = "0A:0B:0C:0D:0E:0F".toList := by decide
/-- V-REN-6, V-REN-7 and V-REN-8. -/
theorem test_render_ipv4 :
    renderIpv4 0xC0A80001 = "192.168.0.1".toList ∧ renderIpv4 0 = "0.0.0.0".toList ∧
      renderIpv4 0xFFFFFFFF = "255.255.255.255".toList := by decide
/-- V-REN-10 with one choice of the open format. -/
theorem test_render_dump :
    hexDump ⟨true, [], [], [' ']⟩ "label:".toList [0xDE, 0xAD, 0xBE, 0xEF] = ["label:DE AD BE EF".toList] := by decide

/-! ## Witnesses: states and operands that meet the hypotheses of each statement -/

theorem test_witness_DecodeEncodeRoundTrip :
    ([.ethParse, .ipv4Parse, .netUnrecognized 0x0801, .icmpParse, .tcpParse, .udpParse, .trnUnrecognized 0xFFFF, .hostStart 1,
      .hostWriteFb 0xFFFE 0xFF, .hostWriteFrameLen 0xFFFFFFFF, .hostReadReg 0xFFFC, .hostReadFb 0xFFFE,
      .hostWriteIgnored ⟨.write 0, 8, 0x1FFFF⟩, .hostWriteIgnored ⟨.read, 32, 6⟩] : List Instr).all Instr.wf = true := by decide

theorem test_witness_SelectorEncodesBack :
    decodeSelector (1#3 ++ 5#16) = some .ethParse ∧ decodeSelector (2#3 ++ 0xFFFF#16) = some (.netUnrecognized 0xFFFF) ∧
      decodeSelector (3#3 ++ 0x12#16) = some (.trnUnrecognized 0x12) := by decide

theorem test_witness_DispatchTableSelects : (0#3 ≠ 1#3 ∧ 0#3 ≠ 2#3 ∧ 0#3 ≠ 3#3) ∧ 4#3 ≠ 1#3 ∧ 4#3 ≠ 2#3 ∧ 4#3 ≠ 3#3 := by decide

theorem test_witness_SelectorFormed :
    (block .eth 0 54 []).stage = .eth ∧ (dispatched .net 14 54 [] 0xFFFF 0 0).stage = .net ∧
      (dispatched .trn 34 54 [] 0x0800 20 0xFF).stage = .trn ∧ State.reset.stage = .idle ∧ finished.stage = .done := by decide

theorem test_witness_OtherAccessesAreIgnored :
    let r : BusAccess := ⟨.read, 8, 0x1FFFF⟩
    let w : BusAccess := ⟨.write 1, 32, 2⟩
    (¬ (r.width = 32#8 ∧ r.offset.toNat < 0x10000 ∧ r.offset.toNat % 4 = 0) ∧
      ¬ (r.width = 8#8 ∧ 0x10000 ≤ r.offset.toNat ∧ r.offset.toNat ≤ 0x1FFFE) ∧ r.dir = .read) ∧
    ¬ (w.width = 32#8 ∧ w.offset.toNat < 0x10000 ∧ w.offset.toNat % 4 = 0) ∧
      ¬ (w.width = 8#8 ∧ 0x10000 ≤ w.offset.toNat ∧ w.offset.toNat ≤ 0x1FFFE) ∧ w.dir ≠ .read := by decide

theorem test_witness_StepRunsHostOperation :
    ({ State.reset with schedule := [.bus ⟨.write 1, 32, 0⟩] } : State).schedule = .bus ⟨.write 1, 32, 0⟩ :: [] := by decide

theorem test_witness_StepRunsSelectedOperation :
    (dispatched .trn 34 54 frameA 0x0800 20 6).selector = some 0x30006 ∧ decodeSelector 0x30006 = some .tcpParse ∧
      (dispatched .trn 34 54 frameA 0x0800 20 6).schedule = [] ∧
      ({ dispatched .trn 34 54 frameA 0x0800 20 6 with schedule := [.engine] } : State).selector = some 0x30006 ∧
      ({ dispatched .trn 34 54 frameA 0x0800 20 6 with schedule := [.engine] } : State).schedule = .engine :: [] := by decide

theorem test_witness_FetchedWordRuns :
    decodeTableWord 24 0x30006 = some .tcpParse ∧ decodeTableWord 24 0x30100 = some (.trnUnrecognized 0x0100) ∧
      decodeTableWord 8 0x4 = some (.hostWriteIgnored ⟨.write 0, 0, 4⟩) := by decide

theorem test_witness_EthParseDecodesHeader :
    (block .eth 0 14 frameA).cursor.toNat = 0 ∧ 0 + 14 = (block .eth 0 14 frameA).frameLen.toNat ∧
      (block .eth 65521 65535 []).cursor.toNat + 14 = (block .eth 65521 65535 []).frameLen.toNat ∧
      (block .eth 0 13 frameA).cursor.toNat + 13 = (block .eth 0 13 frameA).frameLen.toNat := by decide

theorem test_witness_EthParseFailsBelowFourteen :
    (block .eth 0 13 frameA).cursor = 0 ∧ (block .eth 0 13 frameA).frameLen.toNat < 14 ∧ (block .eth 0 14 frameA).cursor = 0 := by
  decide

theorem test_witness_NetUnrecognizedFinishes :
    (block .net 14 14 frameA).cursor.toNat ≤ (block .net 14 14 frameA).frameLen.toNat ∧ 0x0801#16 ≠ 0x0800#16 := by decide

theorem test_witness_Ipv4ParseDecodesHeader :
    (5 ≤ (block .net 14 34 frameA).ihl ∧ 14 + 4 * (block .net 14 34 frameA).ihl ≤ (block .net 14 34 frameA).frameLen.toNat) ∧
      5 ≤ (block .net 14 74 (eth 8 0 ++ ip 0x4F 2)).ihl ∧
      14 + 4 * (block .net 14 74 (eth 8 0 ++ ip 0x4F 2)).ihl ≤ (block .net 14 74 (eth 8 0 ++ ip 0x4F 2)).frameLen.toNat := by decide

theorem test_witness_Ipv4ChecksInOrder :
    (block .net 14 33 frameA).cursor.toNat + 19 = (block .net 14 33 frameA).frameLen.toNat ∧
      ((block .net 14 34 (eth 8 0 ++ ip 0x44 6)).cursor.toNat + 20 = (block .net 14 34 (eth 8 0 ++ ip 0x44 6)).frameLen.toNat ∧
        (block .net 14 34 (eth 8 0 ++ ip 0x44 6)).ihl < 5) ∧
      (block .net 14 37 (eth 8 0 ++ ip 0x46 6)).cursor.toNat + 23 = (block .net 14 37 (eth 8 0 ++ ip 0x46 6)).frameLen.toNat ∧
        5 ≤ (block .net 14 37 (eth 8 0 ++ ip 0x46 6)).ihl ∧ 23 < 4 * (block .net 14 37 (eth 8 0 ++ ip 0x46 6)).ihl := by decide

theorem test_witness_Ipv4HeaderLengthIsFourNibbles :
    (block .net 14 34 frameA).cursor.toNat ≤ (block .net 14 34 frameA).frameLen.toNat ∧
      (after (exec .ipv4Parse (block .net 14 34 frameA))).stage ≠ .done := by decide

/-- Two blocks that differ in the version nibble alone, a START at DONE, and an abort at TRN. -/
theorem test_witness_VersionMismatchOnlyWarns :
    (SameRegisters (block .net 14 34 frameA) ((block .net 14 34 frameA).writeFb 14 0x65) ∧
      SameEnvironment (block .net 14 34 frameA) ((block .net 14 34 frameA).writeFb 14 0x65) ∧
      (∀ a, a ≠ (block .net 14 34 frameA).cursor.toNat →
        (block .net 14 34 frameA).fbByte a = ((block .net 14 34 frameA).writeFb 14 0x65).fbByte a) ∧
      (block .net 14 34 frameA).ihl = ((block .net 14 34 frameA).writeFb 14 0x65).ihl ∧ (block .net 14 34 frameA).version = 4 ∧
      (after (exec .ipv4Parse ((block .net 14 34 frameA).writeFb 14 0x65))).stage ≠ .done) ∧
    finished.busy = false ∧
    (block .trn 34 47 frameA).outcome ≠ .failed ∧ (after (exec .tcpParse (block .trn 34 47 frameA))).outcome = .failed :=
  ⟨⟨⟨rfl, rfl, rfl, rfl, rfl, rfl, rfl, rfl⟩, ⟨rfl, rfl, rfl, rfl⟩, fun _ h => (State.fbByte_writeFb_other _ _ h).symm, by decide,
    by decide, by decide⟩, by decide, by decide, by decide⟩

theorem test_witness_IcmpParseDecodesHeader :
    (block .trn 34 38 frameD).cursor.toNat + 4 = (block .trn 34 38 frameD).frameLen.toNat ∧
      (block .trn 34 37 frameD).cursor.toNat + 3 = (block .trn 34 37 frameD).frameLen.toNat := by decide

theorem test_witness_TcpParseDecodesHeader :
    ((block .trn 34 54 frameA).cursor.toNat + 20 = (block .trn 34 54 frameA).frameLen.toNat ∧
      5 ≤ (block .trn 34 54 frameA).dataOffset ∧ 4 * (block .trn 34 54 frameA).dataOffset ≤ 20) ∧
    (block .trn 34 94 (eth 8 0 ++ ip 0x45 6 ++ tcp 0xF0 2)).cursor.toNat + 60 =
        (block .trn 34 94 (eth 8 0 ++ ip 0x45 6 ++ tcp 0xF0 2)).frameLen.toNat ∧
      4 * (block .trn 34 94 (eth 8 0 ++ ip 0x45 6 ++ tcp 0xF0 2)).dataOffset ≤ 60 := by decide

theorem test_witness_TcpChecksInOrder :
    (block .trn 34 47 frameA).cursor.toNat + 13 = (block .trn 34 47 frameA).frameLen.toNat ∧
      ((block .trn 34 48 (eth 8 0 ++ ip 0x45 6 ++ tcp 0x40 2)).cursor.toNat + 14 =
          (block .trn 34 48 (eth 8 0 ++ ip 0x45 6 ++ tcp 0x40 2)).frameLen.toNat ∧
        (block .trn 34 48 (eth 8 0 ++ ip 0x45 6 ++ tcp 0x40 2)).dataOffset < 5) ∧
      (block .trn 34 53 frameA).cursor.toNat + 19 = (block .trn 34 53 frameA).frameLen.toNat ∧
        5 ≤ (block .trn 34 53 frameA).dataOffset ∧ 19 < 4 * (block .trn 34 53 frameA).dataOffset := by decide

theorem test_witness_TcpFlagsAreBitTests :
    (11 < 12 ∧ 5 < 6) ∧ (block .trn 34 54 frameA).outcome ≠ .failed ∧
      (after (exec .tcpParse (block .trn 34 54 frameA))).outcome ≠ .failed := by decide

theorem test_witness_UdpParseDecodesHeader :
    (block .trn 34 42 frameB).cursor.toNat + 8 = (block .trn 34 42 frameB).frameLen.toNat ∧
      (block .trn 34 41 frameB).cursor.toNat + 7 = (block .trn 34 41 frameB).frameLen.toNat := by decide

theorem test_witness_TrnUnrecognizedFinishes :
    (block .trn 34 34 frameA).cursor.toNat ≤ (block .trn 34 34 frameA).frameLen.toNat ∧ 18#16 ≠ 1#16 ∧ 18#16 ≠ 6#16 ∧ 18#16 ≠ 17#16 := by
  decide

/-- The second clause: with `test_witness_StepKeepsInv` (TRN, busy) and `test_witness_inv_net` (NET). -/
theorem test_witness_FinishReportsResidual :
    isEngineOp .udpParse = true ∧ (block .trn 34 42 frameB).outcome = .none ∧
      (block .trn 34 42 frameB).cursor.toNat ≤ (block .trn 34 42 frameB).frameLen.toNat ∧
      (after (exec .udpParse (block .trn 34 42 frameB))).outcome = .udp ∧
      (dispatched .net 14 14 frameA 0x0806 0 0).busy = true ∧
      (after (applyEvent .engine (dispatched .net 14 14 frameA 0x0806 0 0))).outcome = .ethOnly := by decide

theorem test_witness_AbortIsTheWholeEffect :
    0x014 ≤ (0x014#16).toNat ∧ isEngineOp .ethParse = true ∧ (block .eth 0 13 frameA).outcome ≠ .failed ∧
      (after (exec .ethParse (block .eth 0 13 frameA))).outcome = .failed := by decide

/-- Each case of the list at its boundary. -/
theorem test_witness_TruncatedInputExactly :
    (after (exec .ethParse (block .eth 0 13 frameA))).errKind = .truncatedInput ∧
      (after (exec .ipv4Parse (block .net 14 33 frameA))).errKind = .truncatedInput ∧
      (after (exec .ipv4Parse (block .net 14 37 (eth 8 0 ++ ip 0x46 6)))).errKind = .truncatedInput ∧
      (after (exec .icmpParse (block .trn 34 37 frameD))).errKind = .truncatedInput ∧
      (after (exec .tcpParse (block .trn 34 47 frameA))).errKind = .truncatedInput ∧
      (after (exec .tcpParse (block .trn 34 53 frameA))).errKind = .truncatedInput ∧
      (after (exec .udpParse (block .trn 34 41 frameB))).errKind = .truncatedInput ∧
      (block .eth 0 13 frameA).errKind = .none ∧ isEngineOp .tcpParse = true := by decide

theorem test_witness_BadHeaderLengthExactly :
    (after (exec .ipv4Parse (block .net 14 34 (eth 8 0 ++ ip 0x44 6)))).errKind = .badHeaderLength ∧
      (after (exec .tcpParse (block .trn 34 48 (eth 8 0 ++ ip 0x45 6 ++ tcp 0x40 2)))).errKind = .badHeaderLength ∧
      (block .net 14 34 frameA).errKind = .none ∧ isEngineOp .ipv4Parse = true := by decide

theorem test_witness_StartBeginsDissection :
    (0xFFFFFFFF#32).toNat % 2 = 1 ∧ (0xFFFFFFFE#32).toNat % 2 = 0 ∧ State.reset.stage = .idle ∧ finished.stage = .done ∧ (block .trn 34 54 frameA).stage ≠ .idle ∧
      (block .trn 34 54 frameA).stage ≠ .done := by decide

theorem test_witness_FbWriteStoresOneByte :
    (0xFFFE#16).toNat ≤ 65534 ∧ (0#16).toNat ≤ 65534 ∧ (0x1234567E#32).setWidth 8 = 0x7E#8 ∧ State.reset.stage = .idle ∧ (block .eth 0 54 frameA).stage ≠ .idle ∧
      (block .eth 0 54 frameA).stage ≠ .done := by decide

theorem test_witness_FrameLenWriteTakesLowHalf :
    finished.stage = .done ∧ (block .net 14 54 frameA).stage ≠ .idle ∧ (block .net 14 54 frameA).stage ≠ .done := by decide

theorem test_witness_RegisterReadReturnsMap : (0xFFFC#16).toNat % 4 = 0 := by decide

theorem test_witness_FbReadReturnsByte : (0xFFFE#16).toNat ≤ 65534 := by decide

theorem test_witness_IgnoredAccessChangesNothing :
    (⟨.read, 8, 0x1FFFF⟩ : BusAccess).ignored = true ∧ (⟨.write 0, 32, 0⟩ : BusAccess).ignored = true ∧
      (¬ (∃ d', decodeAccess ⟨.write 0, 32, 0⟩ = .hostStart d') ∧ ¬ (∃ b v, decodeAccess ⟨.write 0, 32, 0⟩ = .hostWriteFb b v) ∧
        ¬ ∃ d', decodeAccess ⟨.write 0, 32, 0⟩ = .hostWriteFrameLen d') := by
  have h : decodeAccess ⟨.write 0, 32, 0⟩ = .hostWriteIgnored ⟨.write 0, 32, 0⟩ := by decide
  refine ⟨by decide, by decide, ?_⟩
  rw [h]
  refine ⟨?_, ?_, ?_⟩
  · rintro ⟨_, h⟩; cases h
  · rintro ⟨_, _, h⟩; cases h
  · rintro ⟨_, h⟩; cases h

theorem test_witness_ReadsHaveNoSideEffect : (⟨.read, 32, 4⟩ : BusAccess).dir = .read := by decide

/-! ### The invariants -/

theorem zero_clear : Results.zero.transportClear :=
  ⟨⟨rfl, rfl, rfl⟩, ⟨rfl, rfl, rfl, rfl, rfl, rfl⟩, ⟨rfl, rfl, rfl⟩, rfl, rfl⟩

/-- The invariant holds at ETH with frame A loaded. -/
theorem test_witness_inv_eth : (block .eth 0 54 frameA).Inv where
  memory := by decide
  outcome := by decide
  errKind := by decide
  errLayer := by decide
  failed := by decide
  cursor := by decide
  atIdle := by decide
  atEth := by decide
  atNet := fun h => absurd h (by decide)
  atTrn := fun h => absurd h (by decide)

/-- The invariant holds at NET with an ether_type that is not IPv4. -/
theorem test_witness_inv_net : (dispatched .net 14 14 frameA 0x0806 0 0).Inv where
  memory := by decide
  outcome := by decide
  errKind := by decide
  errLayer := by decide
  failed := by decide
  cursor := by decide
  atIdle := by decide
  atEth := by decide
  atNet := fun _ => ⟨rfl, ⟨rfl, rfl, rfl, rfl, rfl, rfl⟩, zero_clear, rfl⟩
  atTrn := fun h => absurd h (by decide)

/-- The invariant holds at TRN, where the next step ends the dissection. -/
theorem test_witness_StepKeepsInv : (dispatched .trn 34 54 frameA 0x0800 20 6).Inv where
  memory := by decide
  outcome := by decide
  errKind := by decide
  errLayer := by decide
  failed := by decide
  cursor := by decide
  atIdle := by decide
  atEth := by decide
  atNet := fun h => absurd h (by decide)
  atTrn := fun _ => ⟨⟨rfl, by decide, by decide⟩, zero_clear⟩

/-- The invariant, the tagged tree and the residual's extent hold at DONE. -/
theorem test_witness_StepKeepsTaggedTree : finished.Inv ∧ finished.TaggedTree where
  left := {
    memory := by decide
    outcome := by decide
    errKind := by decide
    errLayer := by decide
    failed := by decide
    cursor := by decide
    atIdle := by decide
    atEth := by decide
    atNet := fun h => absurd h (by decide)
    atTrn := fun h => absurd h (by decide) }
  right := {
    ethOnly := fun h => absurd h (by decide)
    ipv4Unrecognized := fun _ =>
      ⟨⟨rfl, by decide, by decide⟩, ⟨rfl, rfl, rfl⟩, ⟨rfl, rfl, rfl, rfl, rfl, rfl⟩, ⟨rfl, rfl, rfl⟩, by decide⟩
    icmp := fun h => absurd h (by decide)
    tcp := fun h => absurd h (by decide)
    udp := fun h => absurd h (by decide) }

theorem test_witness_ResultFitsFrameUntilNextLength :
    finished.ResultFitsFrame ∧ Event.engine.writesFrameLen = false ∧ (Event.bus ⟨.write 0, 8, 0x10000⟩).writesFrameLen = false :=
  ⟨fun _ => by decide, by decide, by decide⟩

/-! ### Whole-machine statements -/

/-- One event for each change of STAGE; the invariant holds in such states by the three witnesses above. -/
theorem test_witness_StageTransitions :
    (after (applyEvent .engine (block .eth 0 54 frameA))).stage = .net ∧
      (after (applyEvent .engine (block .eth 0 13 frameA))).stage = .done ∧
      (after (applyEvent .engine (dispatched .net 14 54 frameA 0x0800 0 0))).stage = .trn ∧
      (after (applyEvent .engine (dispatched .net 14 54 frameA 0x0806 0 0))).stage = .done ∧
      (after (applyEvent .engine (dispatched .trn 34 54 frameA 0x0800 20 6))).stage = .done ∧
      (after (applyEvent (.bus ⟨.write 1, 32, 0⟩) finished)).stage = .eth ∧
      (after (applyEvent .reset finished)).stage = .idle ∧ (after (applyEvent .powerUp finished)).stage = .idle := by decide

theorem test_witness_BusyFrameIsImmutable :
    (block .net 14 54 frameA).busy = true ∧ Event.engine.running = true ∧ (Event.bus ⟨.write 1, 32, 8⟩).running = true := by decide

theorem test_witness_EngineOperationFrame :
    isEngineOp .ethParse = true ∧ isEngineOp .tcpParse = true ∧ isTransportOp .tcpParse = true ∧
      isTransportOp (.trnUnrecognized 2) = true := by decide

theorem test_witness_BytesAreStable :
    Event.bus ⟨.write 0xAA, 8, 0x10000⟩ ≠ .powerUp ∧
      (after (applyEvent (.bus ⟨.write 0xAA, 8, 0x10000⟩) (block .idle 0 0 [0x55]))).fbByte 0 ≠ (block .idle 0 0 [0x55]).fbByte 0 := by
  decide

theorem test_witness_ResultStaysAtDone :
    finished.stage = .done ∧
      ∀ e ∈ [Event.engine, .bus ⟨.read, 32, 4⟩, .bus ⟨.write 0x55, 8, 0x10000⟩, .bus ⟨.write 41, 32, 8⟩, .bus ⟨.write 0, 32, 0⟩],
        ¬ e.endsResult := by
  refine ⟨rfl, ?_⟩
  intro e he
  simp only [List.mem_cons, List.not_mem_nil, or_false] at he
  rcases he with rfl | rfl | rfl | rfl | rfl <;> simp [Event.endsResult, decodeAccess]

/-- Two blocks with the same frame of 42 bytes and a different byte beyond it. -/
theorem test_witness_EngineReadsOnlyTheFrame :
    isEngineOp .udpParse = true ∧ (block .trn 34 42 frameB).cursor.toNat ≤ (block .trn 34 42 frameB).frameLen.toNat ∧
      SameRegisters (block .trn 34 42 frameB) ((block .trn 34 42 frameB).writeFb 42 0) ∧
      SameFrame (block .trn 34 42 frameB) ((block .trn 34 42 frameB).writeFb 42 0) ∧
      (block .trn 34 42 frameB).fbByte 42 ≠ ((block .trn 34 42 frameB).writeFb 42 0).fbByte 42 :=
  ⟨rfl, by decide, ⟨rfl, rfl, rfl, rfl, rfl, rfl, rfl, rfl⟩,
    ⟨rfl, fun _ h => (State.fbByte_writeFb_other _ _ (Nat.ne_of_lt h)).symm⟩, by decide⟩

/-- V-IP-14, V-TCP-9 and V-UDP-6: blocks that differ only in bytes or bits that are not read. -/
theorem test_witness_IgnoredBitsChangeNothing :
    (SameRegisters (block .net 14 54 frameA) ((block .net 14 54 frameA).writeFb 16 0xFF) ∧
      ∀ k ∈ [0, 8, 9, 12, 13, 14, 15, 16, 17, 18, 19],
        (block .net 14 54 frameA).fbByte (14 + k) = ((block .net 14 54 frameA).writeFb 16 0xFF).fbByte (14 + k)) ∧
    (SameRegisters (block .trn 34 54 frameA) (block .trn 34 54 (eth 8 0 ++ ip 0x45 6 ++ tcp 0x5F 0xC2)) ∧
      (∀ k < 12, (block .trn 34 54 frameA).fbByte (34 + k) =
        (block .trn 34 54 (eth 8 0 ++ ip 0x45 6 ++ tcp 0x5F 0xC2)).fbByte (34 + k)) ∧
      (block .trn 34 54 frameA).dataOffset = (block .trn 34 54 (eth 8 0 ++ ip 0x45 6 ++ tcp 0x5F 0xC2)).dataOffset ∧
      ((block .trn 34 54 frameA).fbByte 47).setWidth 6 =
        ((block .trn 34 54 (eth 8 0 ++ ip 0x45 6 ++ tcp 0x5F 0xC2)).fbByte 47).setWidth 6) ∧
    SameRegisters (block .trn 34 46 frameB) ((block .trn 34 46 frameB).writeFb 40 0xAB) ∧
      ∀ k < 6, (block .trn 34 46 frameB).fbByte (34 + k) = ((block .trn 34 46 frameB).writeFb 40 0xAB).fbByte (34 + k) :=
  ⟨⟨⟨rfl, rfl, rfl, rfl, rfl, rfl, rfl, rfl⟩, by decide⟩,
    ⟨⟨rfl, rfl, rfl, rfl, rfl, rfl, rfl, rfl⟩, by decide, by decide, by decide⟩,
    ⟨rfl, rfl, rfl, rfl, rfl, rfl, rfl, rfl⟩, by decide⟩

/-- With `test_witness_inv_eth`: three engine steps with reads between them, and the three places where a dissection ends. -/
theorem test_witness_DissectionEndsWithinThreeSteps :
    (block .eth 0 54 frameA).stage = .eth ∧
      (∀ e ∈ [Event.bus ⟨.read, 32, 4⟩, .engine, .engine, .bus ⟨.write 1, 32, 8⟩, .engine], e.running = true) ∧
      engineSteps [.bus ⟨.read, 32, 4⟩, .engine, .engine, .bus ⟨.write 1, 32, 8⟩, .engine] = 3 ∧
      (after (runEvents [.engine] (block .eth 0 13 frameA))).errLayer = .eth ∧
      (after (runEvents [.engine, .engine] (block .eth 0 33 frameA))).errLayer = .ipv4 ∧
      (after (runEvents [.engine, .engine, .engine] (block .eth 0 54 frameA))).outcome = .tcp := by decide

/-- Two quiet blocks with frame A and different last results; three engine steps with and without a read. -/
theorem test_witness_DissectionIsDeterministic :
    SameFrame (block .idle 0 54 frameA) { finished with frameLen := 54 } ∧
      ((block .idle 0 54 frameA).busy = false ∧ ({ finished with frameLen := 54 } : State).busy = false) ∧
      (∀ e ∈ [Event.engine, .bus ⟨.read, 32, 4⟩, .engine, .engine], e.harmless = true) ∧
      engineSteps [.engine, .bus ⟨.read, 32, 4⟩, .engine, .engine] = 3 ∧ engineSteps [.engine, .engine, .engine] = 3 :=
  ⟨⟨rfl, fun _ _ => rfl⟩, by decide, by decide, by decide, by decide⟩

theorem test_witness_ScheduleIsPlayedInOrder :
    runEvents [.bus ⟨.write 1, 32, 0⟩, .engine] { State.reset with schedule := [.reset] } =
      .next (after (runEvents [.bus ⟨.write 1, 32, 0⟩, .engine] { State.reset with schedule := [.reset] })) := rfl

/-- Blocks that hold the headers of the notation at CURSOR, with the smallest lengths and with options. -/
theorem test_witness_HeaderNotationReadsBack :
    ((block .eth 0 14 (eth 8 0)).fbRun 0 14 = ethHeader 0x001122334455 0x66778899AABB 0x0800) ∧
    ((block .net 0 24 (ipv4Header 4 6 64 6 0xC0A80001 0xC0A80002 [1])).fbRun 0 24 =
      ipv4Header 4 6 64 6 0xC0A80001 0xC0A80002 [1]) ∧
    ((block .trn 0 4 (icmpHeader 8 0 0xF7FF)).fbRun 0 4 = icmpHeader 8 0 0xF7FF) ∧
    ((block .trn 0 20 (tcp 0x50 0x02)).fbRun 0 20 = tcpHeader 0x04D2 0x0050 1 0 5 0x002 [0xFF, 0xFF]) ∧
    ((block .trn 0 8 (udpHeader 0x35 0xD431 0 0)).fbRun 0 8 = udpHeader 0x35 0xD431 0 0) := by decide

/-- Two equal renderings, the hypothesis of the second clause. -/
theorem test_witness_MacRenderingIsFaithful :
    renderMac (0x001122#24 ++ 0x334455#24 : BitVec 48) = renderMac 0x001122334455#48 := by decide

theorem test_witness_DumpLinesFitColumns :
    (List.replicate 78 'x').length + (hexCell ⟨false, [], [], [' ']⟩ 0xDE).length ≤ 80 := by decide

/-- Two instances: one at ETH in window 1, and one right after power-up in window 2. -/
def twoBlocks : System := ⟨[{ block .eth 0 54 frameA with fpWindow := 1 }, { State.reset with fpWindow := 2 }]⟩

theorem test_witness_InstancesAreIndependent :
    twoBlocks.wf ∧ (1 : Nat) ≠ 0 ∧ twoBlocks.blocks[1]? = some { State.reset with fpWindow := 2 } ∧
      twoBlocks.stepAt 0 = .next ⟨[after (step { block .eth 0 54 frameA with fpWindow := 1 }), { State.reset with fpWindow := 2 }]⟩ :=
  ⟨⟨by decide, by decide⟩, by decide, rfl, rfl⟩

/-- The last byte of window 1, the clause on one address with `j = k = 0`. -/
theorem test_witness_BusAddressNamesOneInstance :
    twoBlocks.wf ∧ ∃ s, twoBlocks.blocks[0]? = some s ∧ s.fpBase.toNat ≤ (0x3FFFF#32).toNat ∧
      (0x3FFFF#32).toNat < s.fpBase.toNat + 0x20000 :=
  ⟨⟨by decide, by decide⟩, _, rfl, by decide, by decide⟩

/-- A START at FP_BASE of window 2 comes to the second block alone (20_memory.md R85, 60_exceptions.md R269). -/
theorem test_post_one_instance :
    (twoBlocks.post (.write 1) 32 0x40000).blocks.map State.schedule = [[], [.bus ⟨.write 1, 32, 0⟩]] := by decide

end Sys2Proof.Tests
end

section
/-! PROOFS. The family 10_state.md: the machine invariant, the extent of the residual, reads, STATUS, and the blocks of a
system (O35, O36, O39, O40, O42, O57). -/

namespace Sys2Proof.Machine

/-! ## What an engine step can answer -/

/-- The registers ETH_PARSE writes when its header fits, and the move to NET (40_ethernet.md R140). -/
def ethAccept (s : State) : State :=
  { s with
    results := { s.results with
      ethDst  := s.memBytes6 s.cursor.toNat
      ethSrc  := s.memBytes6 (s.cursor.toNat + 6)
      ethType := s.memRead2 (s.cursor.toNat + 12) }
    cursor := BitVec.ofNat 16 (s.cursor.toNat + 14)
    stage := .net }

/-- The shapes of an engine step's answer (43_dissector.md R213): no step, an abort (60_exceptions.md R256), one layer accepted,
or an end with success (43_dissector.md R216) `n` bytes after CURSOR. -/
inductive EngineAnswer (s : State) : State → Prop where
  | idle (hb : s.busy = false) : EngineAnswer s s
  | abort (hb : s.busy = true) {kind : ErrKind} {layer : ErrLayer} (hk : kind ≠ .none) (hl : layer ≠ .none) :
      EngineAnswer s (s.abort kind layer)
  | eth (hs : s.stage = .eth) (hn : 14 ≤ s.avail) : EngineAnswer s (ethAccept s)
  | ipv4 (hs : s.stage = .net) (ht : s.results.ethType = Config.etherTypeIpv4) (h5 : 5 ≤ (ihlOf s.ipv4FirstByte).toNat)
      (hn : 4 * (ihlOf s.ipv4FirstByte).toNat ≤ s.avail) : EngineAnswer s (ipv4Accept s)
  | finish (hb : s.busy = true) {outcome : DissectionOutcome} (ho : outcome.payloadValid = true) {n : Nat} (hn : n ≤ s.avail)
      (r : Results) : EngineAnswer s (State.finish outcome (s.cursor.toNat + n) (s.avail - n) { s with results := r })

theorem engineStep_answer {s t : State} (h : engineStep s = .next t) : EngineAnswer s t := by
  have hbusy {g : Stage} (hs : s.stage = g) (hg : g.busy = true) : s.busy = true := by rw [s.busy_eq, hs, hg]
  obtain ⟨hb, rfl⟩ | ⟨hs, h⟩ | ⟨hs, ht, h⟩ | ⟨hs, -, h⟩ | ⟨hs, -, h⟩ | ⟨hs, -, h⟩ | ⟨hs, -, h⟩ | ⟨hs, -, h⟩ :=
    engineStep_cases h
  · exact .idle hb
  · obtain ⟨-, rfl⟩ | ⟨hn, rfl⟩ := execEthParse_cases h
    · exact .abort (hbusy hs rfl) nofun nofun
    · exact .eth hs hn
  · obtain ⟨-, rfl⟩ | ⟨-, -, rfl⟩ | ⟨-, -, -, rfl⟩ | ⟨h5, hn, rfl⟩ := execIpv4Parse_cases h
    · exact .abort (hbusy hs rfl) nofun nofun
    · exact .abort (hbusy hs rfl) nofun nofun
    · exact .abort (hbusy hs rfl) nofun nofun
    · exact .ipv4 hs ht h5 hn
  · cases h
    exact .finish (hbusy hs rfl) rfl (Nat.zero_le _) s.results
  · obtain ⟨-, rfl⟩ | ⟨hn, rfl⟩ := execIcmpParse_cases h
    · exact .abort (hbusy hs rfl) nofun nofun
    · exact .finish (hbusy hs rfl) rfl hn _
  · obtain ⟨-, rfl⟩ | ⟨-, -, rfl⟩ | ⟨-, -, -, rfl⟩ | ⟨-, hn, rfl⟩ := execTcpParse_cases h
    · exact .abort (hbusy hs rfl) nofun nofun
    · exact .abort (hbusy hs rfl) nofun nofun
    · exact .abort (hbusy hs rfl) nofun nofun
    · rw [← lenBytes_toNat] at hn
      exact .finish (hbusy hs rfl) rfl hn _
  · obtain ⟨-, rfl⟩ | ⟨hn, rfl⟩ := execUdpParse_cases h
    · exact .abort (hbusy hs rfl) nofun nofun
    · exact .finish (hbusy hs rfl) rfl hn _
  · cases h
    exact .finish (hbusy hs rfl) rfl (Nat.zero_le _) s.results

/-! ## Undecided states -/

/-- No result yet: not at DONE, and the three result codes at NONE. -/
structure State.Undecided (s : State) : Prop where
  stage    : s.stage ≠ .done
  outcome  : s.outcome = .none
  errKind  : s.errKind = .none
  errLayer : s.errLayer = .none

theorem State.Inv.undecided {s : State} (h : s.Inv) (hs : s.stage ≠ .done) : s.Undecided := by
  have ho : s.outcome = .none := h.outcome.2 hs
  have hf : s.outcome ≠ .failed := by simp [ho]
  exact ⟨hs, ho, not_not.1 fun hk => hf (h.errKind.1 hk), not_not.1 fun hl => hf (h.errLayer.1 hl)⟩

theorem State.Inv.undecided_of_busy {s : State} (h : s.Inv) (hb : s.busy = true) : s.Undecided :=
  h.undecided fun hs => by simp [s.busy_eq, hs, Stage.busy] at hb

/-- Where no result is, the invariant speaks of the memory, CURSOR and the stage only. -/
theorem State.Undecided.inv {s : State} (h : s.Undecided) (hm : Memory.wf s.fb = true)
    (cursor : s.busy = true → s.cursor.toNat ≤ s.frameLen.toNat)
    (atIdle : s.stage = .idle → s.cursor = 0 ∧ s.results = Results.zero ∧ s.vmismatch = false)
    (atEth : s.stage = .eth → s.cursor = 0 ∧ s.results = Results.zero ∧ s.vmismatch = false)
    (atNet : s.stage = .net → s.cursor = 14 ∧ s.results.ipv4Clear ∧ s.results.transportClear ∧ s.vmismatch = false)
    (atTrn : s.stage = .trn → s.pastIpv4 ∧ s.results.transportClear) : s.Inv where
  memory := hm
  outcome := by simp [h.outcome, h.stage]
  errKind := by simp [h.outcome, h.errKind]
  errLayer := by simp [h.outcome, h.errLayer]
  failed := by simp [h.outcome]
  cursor := cursor
  atIdle := atIdle
  atEth := atEth
  atNet := atNet
  atTrn := atTrn

/-- Where no result is, there is no residual to speak of. -/
theorem State.Undecided.resultFitsFrame {s : State} (h : s.Undecided) : s.ResultFitsFrame := by
  intro hv
  rw [h.outcome] at hv
  cases hv

/-- Where no result is, every tree of 43_dissector.md R227 is ruled out. -/
theorem State.Undecided.taggedTree {s : State} (h : s.Undecided) : s.TaggedTree := by
  constructor <;>
  · intro ho
    rw [h.outcome] at ho
    cases ho

/-- As reset and START leave the registers (10_state.md R53, 43_dissector.md R217). -/
structure State.Fresh (s : State) : Prop extends s.Undecided where
  place   : s.stage = .idle ∨ s.stage = .eth
  cleared : s.cursor = 0 ∧ s.results = Results.zero ∧ s.vmismatch = false

theorem State.reset_fresh : State.reset.Fresh := ⟨⟨nofun, rfl, rfl, rfl⟩, .inl rfl, rfl, rfl, rfl⟩
theorem State.resetBlock_fresh (s : State) : s.resetBlock.Fresh := ⟨⟨nofun, rfl, rfl, rfl⟩, .inl rfl, rfl, rfl, rfl⟩
theorem State.powerUpBlock_fresh (s : State) : s.powerUpBlock.Fresh := ⟨⟨nofun, rfl, rfl, rfl⟩, .inl rfl, rfl, rfl, rfl⟩
theorem State.startDissection_fresh (s : State) : s.startDissection.Fresh :=
  ⟨⟨nofun, rfl, rfl, rfl⟩, .inr rfl, rfl, rfl, rfl⟩

theorem State.Fresh.inv {s : State} (h : s.Fresh) (hm : Memory.wf s.fb = true) : s.Inv := by
  refine h.toUndecided.inv hm (fun _ => ?_) (fun _ => h.cleared) (fun _ => h.cleared) (fun hs => ?_) (fun hs => ?_)
  · rw [h.cleared.1]; exact Nat.zero_le _
  all_goals
    have hp := h.place
    simp [hs] at hp

/-! ## The invariant -/

/-- What a host access may change at once: FB, FRAME_LEN unless the block is busy, and the model's own two fields. -/
theorem State.Inv.update {s : State} (h : s.Inv) {fb : Memory} (hm : Memory.wf fb = true) {n : Half}
    (hn : s.busy = true → n = s.frameLen) (schedule : List Event) (readData : Word) :
    State.Inv { s with fb := fb, frameLen := n, schedule := schedule, readData := readData } where
  memory := hm
  outcome := h.outcome
  errKind := h.errKind
  errLayer := h.errLayer
  failed := h.failed
  cursor hb := by rw [hn hb]; exact h.cursor hb
  atIdle := h.atIdle
  atEth := h.atEth
  atNet := h.atNet
  atTrn := h.atTrn

/-- An abort leaves the invariant's FAILED state: error registers set, all results clear (60_exceptions.md R256). -/
theorem State.abort_inv {s : State} (hm : Memory.wf s.fb = true) {kind : ErrKind} {layer : ErrLayer} (hk : kind ≠ .none)
    (hl : layer ≠ .none) : (s.abort kind layer).Inv where
  memory := hm
  outcome := by simp
  errKind := by simp [hk]
  errLayer := by simp [hl]
  failed _ := ⟨rfl, rfl⟩
  cursor hb := by simp [State.busy, Stage.busy] at hb
  atIdle := nofun
  atEth := nofun
  atNet := nofun
  atTrn := nofun

/-- An end with success leaves the error registers NONE, as they were (43_dissector.md R216). -/
theorem State.finish_inv {s : State} (h : s.Undecided) (hm : Memory.wf s.fb = true) {outcome : DissectionOutcome}
    (ho : outcome.payloadValid = true) (off len : Nat) : (s.finish outcome off len).Inv := by
  have hnone : outcome ≠ .none := by rintro rfl; cases ho
  have hfailed : outcome ≠ .failed := by rintro rfl; cases ho
  exact {
    memory := hm
    outcome := by simp [hnone]
    errKind := by simp [h.errKind, hfailed]
    errLayer := by simp [h.errLayer, hfailed]
    failed := fun hf => absurd hf hfailed
    cursor := fun hb => by simp [State.busy, Stage.busy] at hb
    atIdle := nofun
    atEth := nofun
    atNet := nofun
    atTrn := nofun }

/-- ETH_PARSE moves CURSOR from 0 to 14 and writes no IPv4 or transport register (40_ethernet.md R140). -/
theorem ethAccept_inv {s : State} (h : s.Inv) (hs : s.stage = .eth) (hn : 14 ≤ s.avail) :
    (ethAccept s).Inv := by
  obtain ⟨hc, hr, hv⟩ := h.atEth hs
  have hu := h.undecided (by simp [hs])
  have hb : s.busy = true := by rw [s.busy_eq, hs]; rfl
  refine State.Undecided.inv ⟨nofun, hu.outcome, hu.errKind, hu.errLayer⟩ h.memory (fun _ => ?_) nofun nofun (fun _ => ?_) nofun
  · show (BitVec.ofNat 16 (s.cursor.toNat + 14)).toNat ≤ s.frameLen.toNat
    rw [State.cursor_add_toNat hn (h.cursor hb)]
    simp only [State.avail] at hn
    omega
  · simp [ethAccept, hc, hr, hv, Results.zero, Results.ipv4Clear, Results.transportClear, Results.icmpClear,
      Results.tcpClear, Results.udpClear, Results.payloadClear]

/-- IPV4_PARSE moves CURSOR from 14 past a header of 20 bytes or more and writes no transport register (41_ipv4.md R160). -/
theorem ipv4Accept_inv {s : State} (h : s.Inv) (hs : s.stage = .net) (ht : s.results.ethType = Config.etherTypeIpv4)
    (h5 : 5 ≤ (ihlOf s.ipv4FirstByte).toNat) (hn : 4 * (ihlOf s.ipv4FirstByte).toNat ≤ s.avail) :
    (ipv4Accept s).Inv := by
  obtain ⟨hc, -, htr, -⟩ := h.atNet hs
  have hu := h.undecided (by simp [hs])
  have hb : s.busy = true := by rw [s.busy_eq, hs]; rfl
  rw [← lenBytes_toNat] at hn
  have hcur : (ipv4Accept s).cursor.toNat = s.cursor.toNat + (lenBytes (ihlOf s.ipv4FirstByte)).toNat :=
    State.cursor_add_toNat hn (h.cursor hb)
  have hlen : 20 ≤ (lenBytes (ihlOf s.ipv4FirstByte)).toNat := by rw [lenBytes_toNat]; omega
  refine State.Undecided.inv ⟨nofun, hu.outcome, hu.errKind, hu.errLayer⟩ h.memory (fun _ => ?_) nofun nofun nofun fun _ => ?_
  · rw [hcur]
    show _ ≤ s.frameLen.toNat
    simp only [State.avail] at hn
    omega
  · refine ⟨⟨ht, hlen, ?_⟩, htr⟩
    rw [hcur, hc]; rfl

theorem EngineAnswer.inv {s t : State} (ha : EngineAnswer s t) (h : s.Inv) : t.Inv := by
  cases ha with
  | idle => exact h
  | abort _ hk hl => exact State.abort_inv h.memory hk hl
  | eth hs hn => exact ethAccept_inv h hs hn
  | ipv4 hs ht h5 hn => exact ipv4Accept_inv h hs ht h5 hn
  | finish hb ho hn r =>
    obtain ⟨hs, ho', hk, hl⟩ := h.undecided_of_busy hb
    exact State.finish_inv (s := { s with results := r }) ⟨hs, ho', hk, hl⟩ h.memory ho _ _

theorem exec_access_inv {a : BusAccess} {s t : State} (h : s.Inv) (hx : exec (decodeAccess a) s = .next t) : t.Inv := by
  obtain rfl | ⟨v, rfl⟩ | ⟨-, rfl⟩ | ⟨-, b, v, rfl⟩ | ⟨hb, n, rfl⟩ := exec_access_cases hx
  · exact h
  · exact h.update h.memory (fun _ => rfl) s.schedule v
  · exact s.startDissection_fresh.inv h.memory
  · by_cases hlt : b < Config.fbSize
    · rw [State.writeFb_of_lt v hlt]
      exact h.update (Memory.wf_insert v hlt h.memory) (fun _ => rfl) s.schedule s.readData
    · rw [State.writeFb_of_ge v hlt]; exact h
  · exact h.update h.memory (fun hb' => by simp [hb] at hb') s.schedule s.readData

theorem applyEvent_inv {e : Event} {s t : State} (h : s.Inv) (hx : applyEvent e s = .next t) : t.Inv := by
  obtain ⟨-, hx⟩ | ⟨a, -, hx⟩ | ⟨-, rfl⟩ | ⟨-, rfl⟩ := applyEvent_cases hx
  · exact (engineStep_answer hx).inv h
  · exact exec_access_inv h hx
  · exact s.resetBlock_fresh.inv h.memory
  · exact s.powerUpBlock_fresh.inv Memory.wf_nil

/-- Settles O40: each shape of a step's answer keeps the invariant. -/
theorem stepKeepsInv : Obligations.StepKeepsInv := by
  intro s t h hx
  obtain ⟨-, hx⟩ | ⟨e, rest, -, hx⟩ := step_cases hx
  · exact (engineStep_answer hx).inv h
  · exact applyEvent_inv (h.update h.memory (fun _ => rfl) rest s.readData) hx

/-- Settles O39: reset leaves an undecided state with everything cleared. -/
theorem invHoldsAtReset : Obligations.InvHoldsAtReset :=
  ⟨State.reset_fresh.inv State.reset_wf, State.reset_fresh.taggedTree, State.reset_fresh.resultFitsFrame⟩

/-! ## Host accesses -/

/-- No read changes anything but what it returns (10_state.md R50, 20_memory.md R84). -/
theorem exec_read {a : BusAccess} (hr : a.dir = .read) (s : State) :
    ∃ v, exec (decodeAccess a) s = .next { s with readData := v } := by
  obtain ⟨dir, width, offset⟩ := a
  subst hr
  simp only [decodeAccess]
  split_ifs
  · exact ⟨_, rfl⟩
  · exact ⟨_, rfl⟩
  · exact ⟨_, rfl⟩

/-- Settles O35: each of the three read operations writes the read data only. -/
theorem readsHaveNoSideEffect : Obligations.ReadsHaveNoSideEffect :=
  fun _ s hr => exec_read hr s

/-! ## The residual of a success -/

/-- An end with success `n` bytes after CURSOR reports the rest of the frame (43_dissector.md R216). -/
theorem State.finish_resultFitsFrame {s : State} {n : Nat} (hc : s.cursor.toNat ≤ s.frameLen.toNat) (hn : n ≤ s.avail)
    (outcome : DissectionOutcome) : (s.finish outcome (s.cursor.toNat + n) (s.avail - n)).ResultFitsFrame := by
  intro _
  refine ⟨?_, hc⟩
  have hlen : (BitVec.ofNat 16 (s.avail - n)).toNat = s.avail - n := by
    have := s.avail_le
    exact Nat.mod_eq_of_lt (by omega)
  show (BitVec.ofNat 16 (s.cursor.toNat + n)).toNat + (BitVec.ofNat 16 (s.avail - n)).toNat = s.frameLen.toNat
  rw [State.cursor_add_toNat hn hc, hlen]
  simp only [State.avail] at hn ⊢
  omega

theorem EngineAnswer.resultFitsFrame {s t : State} (ha : EngineAnswer s t) (h : s.Inv) (hf : s.ResultFitsFrame) :
    t.ResultFitsFrame := by
  cases ha with
  | idle => exact hf
  | abort => nofun
  | eth hs hn => exact ((ethAccept_inv h hs hn).undecided nofun).resultFitsFrame
  | ipv4 hs ht h5 hn => exact ((ipv4Accept_inv h hs ht h5 hn).undecided nofun).resultFitsFrame
  | finish hb _ hn r => exact State.finish_resultFitsFrame (s := { s with results := r }) (h.cursor hb) hn _

/-- Only a FRAME_LEN write changes FRAME_LEN (43_dissector.md R219). -/
theorem exec_access_frameLen {a : BusAccess} {s t : State} (hw : (Event.bus a).writesFrameLen = false)
    (h : exec (decodeAccess a) s = .next t) : t.frameLen = s.frameLen := by
  obtain ⟨dir, width, offset⟩ := a
  cases dir with
  | read =>
    obtain ⟨v, hv⟩ := exec_read (a := ⟨.read, width, offset⟩) rfl s
    cases hv.symm.trans h
    rfl
  | write d =>
    have hne : ¬ (width = 32#8 ∧ offset = 0x8#32) := by simpa [Event.writesFrameLen] using hw
    simp only [decodeAccess, if_neg hne] at h
    split_ifs at h
    · simp only [exec, execHostStart] at h
      split_ifs at h <;> cases h <;> rfl
    · simp only [exec, execHostWriteFb] at h
      split_ifs at h <;> cases h
      · rfl
      · exact s.writeFb_frameLen _ _
    · cases h; rfl

theorem exec_access_resultFitsFrame {a : BusAccess} {s t : State} (hf : s.ResultFitsFrame)
    (hw : (Event.bus a).writesFrameLen = false) (hx : exec (decodeAccess a) s = .next t) : t.ResultFitsFrame := by
  have hlen := exec_access_frameLen hw hx
  obtain rfl | ⟨v, rfl⟩ | ⟨-, rfl⟩ | ⟨-, b, v, rfl⟩ | ⟨-, n, rfl⟩ := exec_access_cases hx
  · exact hf
  · exact hf
  · exact s.startDissection_fresh.resultFitsFrame
  · simpa [State.ResultFitsFrame] using hf
  · cases (hlen : n = s.frameLen); exact hf

/-- Settles O42: only an end with success writes the residual, and it reaches the end of the frame. -/
theorem resultFitsFrameUntilNextLength : Obligations.ResultFitsFrameUntilNextLength := by
  intro e s t h hf hw hx
  obtain ⟨-, hx⟩ | ⟨a, rfl, hx⟩ | ⟨-, rfl⟩ | ⟨-, rfl⟩ := applyEvent_cases hx
  · exact (engineStep_answer hx).resultFitsFrame h hf
  · exact exec_access_resultFitsFrame hf hw hx
  · exact s.resetBlock_fresh.resultFitsFrame
  · exact s.powerUpBlock_fresh.resultFitsFrame

/-! ## STATUS -/

theorem getLsbD_append_flagBit {w : Nat} (hi : BitVec w) (b : Bool) (i : Nat) :
    (hi ++ flagBit b).getLsbD i = if i = 0 then b else hi.getLsbD (i - 1) := by
  rw [BitVec.getLsbD_append, flagBit, BitVec.getLsbD_ofBool]
  cases i <;> simp

/-- STATUS bit by bit, in the order of 10_state.md R39. -/
theorem State.statusWord_getLsbD (s : State) (i : Nat) :
    s.statusWord.getLsbD i =
      if i < 1 then s.busy
      else if i < 2 then s.doneFlag
      else if i < 3 then s.errorFlag
      else if i < 4 then s.vmismatch
      else if i < 7 then s.outcome.code.getLsbD (i - 4)
      else if i < 8 then false
      else if i < 10 then s.errKind.code.getLsbD (i - 8)
      else if i < 12 then false
      else if i < 15 then s.errLayer.code.getLsbD (i - 12)
      else if i < 16 then false
      else if i < 17 then s.outcome.ethValid
      else if i < 18 then s.outcome.ipv4Valid
      else if i < 19 then s.outcome.icmpValid
      else if i < 20 then s.outcome.tcpValid
      else if i < 21 then s.outcome.udpValid
      else if i < 22 then s.outcome.payloadValid
      else false := by
  unfold State.statusWord
  simp -index only [↓getLsbD_append_flagBit, BitVec.getLsbD_append, BitVec.getLsbD_zero, Nat.sub_sub,
    Nat.reduceAdd]
  iterate 16 refine if_congr (by omega) rfl ?_
  rfl

/-- The fields of STATUS of more than one bit, the reserved ones 0. -/
theorem State.statusWord_fields (s : State) :
    s.statusWord.extractLsb' 4 3 = s.outcome.code ∧ s.statusWord.extractLsb' 8 2 = s.errKind.code ∧
      s.statusWord.extractLsb' 10 2 = 0#2 ∧ s.statusWord.extractLsb' 12 3 = s.errLayer.code ∧
      s.statusWord.extractLsb' 22 10 = 0#10 := by
  refine ⟨?_, ?_, ?_, ?_, ?_⟩ <;>
  · refine BitVec.eq_of_getLsbD_eq fun i hi => ?_
    rw [BitVec.getLsbD_extractLsb', s.statusWord_getLsbD]
    interval_cases i <;> rfl

theorem DissectionOutcome.ethValid_iff (o : DissectionOutcome) :
    o.ethValid = true ↔ o ∈ [.ethOnly, .ipv4Unrecognized, .icmp, .tcp, .udp] := by
  cases o <;> decide

theorem DissectionOutcome.ipv4Valid_iff (o : DissectionOutcome) :
    o.ipv4Valid = true ↔ o ∈ [.ipv4Unrecognized, .icmp, .tcp, .udp] := by
  cases o <;> decide

/-- A read of STATUS returns the STATUS word (10_state.md R49). -/
theorem exec_read_status (s : State) : exec (.hostReadReg 0x004) s = .next { s with readData := s.statusWord } := by
  have hr : s.readReg 0x004 = s.statusWord := s.readReg_offset .status
  simp only [exec, execHostReadReg, hr]

/-- A 32-bit write to STATUS is an ignored access. -/
theorem exec_write_status (d : Word) (s : State) : exec (decodeAccess ⟨.write d, 32#8, 4#32⟩) s = .next s := by
  have hd : decodeAccess ⟨.write d, 32#8, 4#32⟩ = .hostWriteIgnored ⟨.write d, 32#8, 4#32⟩ := by
    simp [decodeAccess]
  rw [hd]; rfl


/-- Settles O36: the clauses are read off the table of bits, the fields and the two accesses. -/
theorem statusBitLayout : Obligations.StatusBitLayout := by
  intro s
  obtain ⟨houtcome, hkind, hlow, hlayer, htop⟩ := s.statusWord_fields
  simp only [s.statusWord_getLsbD, houtcome, hkind, hlayer]
  refine ⟨s.stage.busy_iff, beq_iff_eq, beq_iff_eq, rfl, ?_, rfl, ?_, hlow, ?_, rfl, s.outcome.ethValid_iff,
    s.outcome.ipv4Valid_iff, beq_iff_eq, beq_iff_eq, beq_iff_eq, s.outcome.ethValid_iff, htop, exec_read_status s,
    fun d => exec_write_status d s⟩
  · cases s.outcome <;> decide
  · cases s.errKind <;> decide
  · cases s.errLayer <;> decide

/-! ## The bus window -/

theorem EngineAnswer.fpWindow {s t : State} (ha : EngineAnswer s t) : t.fpWindow = s.fpWindow := by
  cases ha <;> rfl

theorem exec_access_fpWindow {a : BusAccess} {s t : State} (h : exec (decodeAccess a) s = .next t) :
    t.fpWindow = s.fpWindow := by
  obtain rfl | ⟨v, rfl⟩ | ⟨-, rfl⟩ | ⟨-, b, v, rfl⟩ | ⟨-, n, rfl⟩ := exec_access_cases h
  · rfl
  · rfl
  · rfl
  · exact s.writeFb_fpWindow b v
  · rfl

theorem applyEvent_fpWindow {e : Event} {s t : State} (h : applyEvent e s = .next t) : t.fpWindow = s.fpWindow := by
  obtain ⟨-, h⟩ | ⟨a, -, h⟩ | ⟨-, rfl⟩ | ⟨-, rfl⟩ := applyEvent_cases h
  · exact (engineStep_answer h).fpWindow
  · exact exec_access_fpWindow h
  · rfl
  · rfl

/-- No step moves a block's window (60_exceptions.md R269). -/
theorem step_fpWindow {s t : State} (h : step s = .next t) : t.fpWindow = s.fpWindow := by
  obtain ⟨-, h⟩ | ⟨e, rest, -, h⟩ := step_cases h
  · exact (engineStep_answer h).fpWindow
  · exact applyEvent_fpWindow (s := { s with schedule := rest }) h

/-! ## One step of a system -/

theorem System.stepAt_of_some {k : Nat} {sys : System} {s t : State} (hk : sys.blocks[k]? = some s) (h : step s = .next t) :
    sys.stepAt k = .next ⟨sys.blocks.set k t⟩ := by
  simp only [System.stepAt, hk, h]

/-- A system's step changes nothing, or sets one block to what its own step answers. -/
theorem System.stepAt_cases {k : Nat} {sys sys' : System} (h : sys.stepAt k = .next sys') :
    sys' = sys ∨ ∃ s t, sys.blocks[k]? = some s ∧ step s = .next t ∧ sys' = ⟨sys.blocks.set k t⟩ := by
  unfold System.stepAt at h
  split at h
  · exact .inl (by simpa using h.symm)
  rename_i s hk
  split at h
  · rename_i t ht
    exact .inr ⟨s, t, hk, ht, by simpa using h.symm⟩
  · cases h
  · cases h

/-- Setting a block to one with the same window keeps the list of windows. -/
theorem map_fpWindow_set {blocks : List State} {k : Nat} {s t : State} (hk : blocks[k]? = some s)
    (hw : t.fpWindow = s.fpWindow) : (blocks.set k t).map State.fpWindow = blocks.map State.fpWindow := by
  obtain ⟨hlt, rfl⟩ := List.getElem?_eq_some_iff.1 hk
  rw [List.map_set, hw, ← List.getElem_map State.fpWindow (h := by simpa using hlt), List.set_getElem_self]

/-- Settles O57: a step sets one place of the list of blocks, and keeps its window. -/
theorem instancesAreIndependent : Obligations.InstancesAreIndependent := by
  refine ⟨fun k j sys sys' h hj => ?_, fun k sys s t hk ht => ?_, fun k sys sys' hwf h => ?_⟩
  · obtain rfl | ⟨s, t, -, -, rfl⟩ := System.stepAt_cases h
    · rfl
    · exact List.getElem?_set_ne hj.symm
  · obtain ⟨hlt, -⟩ := List.getElem?_eq_some_iff.1 hk
    exact ⟨_, System.stepAt_of_some hk ht, List.getElem?_set_self hlt⟩
  · obtain rfl | ⟨s, t, hk, ht, rfl⟩ := System.stepAt_cases h
    · exact hwf
    · obtain ⟨hpos, hnodup⟩ := hwf
      refine ⟨?_, ?_⟩
      · simpa [System.nInstances] using hpos
      · rwa [map_fpWindow_set hk (step_fpWindow ht)]

end Sys2Proof.Machine
end

section
/-! PROOFS. The family 20_memory.md: what a bus access is and where it goes, what an operation leaves unchanged, and which bytes
an engine operation depends on (O6, O7, O44, O45, O46, O47, O48, O50, O53, O58). -/

namespace Sys2Proof.Machine

/-! ## Wide reads -/

theorem toNat_append_eq_add {m n : Nat} (x : BitVec m) (y : BitVec n) : (x ++ y).toNat = x.toNat * 2 ^ n + y.toNat := by
  rw [BitVec.toNat_append, ← Nat.shiftLeft_add_eq_or_of_lt y.isLt, Nat.shiftLeft_eq]

theorem State.memRead2_toNat (s : State) (a : Nat) :
    (s.memRead2 a).toNat = (s.fbByte a).toNat * 256 + (s.fbByte (a + 1)).toNat :=
  toNat_append_eq_add ..

theorem State.memRead4_toNat (s : State) (a : Nat) :
    (s.memRead4 a).toNat = (s.memRead2 a).toNat * 65536 + (s.memRead2 (a + 2)).toNat := by
  unfold State.memRead4
  iterate 3 rw [toNat_append_eq_add]
  simp only [State.memRead2_toNat, Nat.add_assoc, Nat.reduceAdd]
  omega

theorem State.memBytes4_eq_memRead4 (s : State) (a : Nat) : s.memBytes4 a = s.memRead4 a := rfl

theorem State.memBytes6_toNat (s : State) (a : Nat) :
    (s.memBytes6 a).toNat = (s.memRead2 a).toNat * 2 ^ 32 + (s.memBytes4 (a + 2)).toNat := by
  unfold State.memBytes6
  iterate 5 rw [toNat_append_eq_add]
  simp only [State.memBytes4_eq_memRead4, State.memRead4_toNat, State.memRead2_toNat, Nat.add_assoc, Nat.reduceAdd]
  omega

/-- Settles O50: appending a byte on the right multiplies by 256 and adds it. -/
theorem wideReadsAreBigEndian : Obligations.WideReadsAreBigEndian :=
  fun s a => ⟨s.memRead2_toNat a, s.memRead4_toNat a, s.memBytes4_eq_memRead4 a, s.memBytes6_toNat a⟩

/-! ## Accesses that are ignored -/

/-- An access of a wrong width, alignment or place decodes to the ignored one (20_memory.md R82). -/
theorem decodeAccess_of_misplaced {a : BusAccess}
    (hreg : ¬ (a.width = 32#8 ∧ a.offset.toNat < 0x10000 ∧ a.offset.toNat % 4 = 0))
    (hfb : ¬ (a.width = 8#8 ∧ 0x10000 ≤ a.offset.toNat ∧ a.offset.toNat ≤ 0x1FFFE)) :
    decodeAccess a = .hostWriteIgnored a := by
  obtain ⟨dir, width, offset⟩ := a
  cases dir with
  | read => simp only [decodeAccess, if_neg hreg, if_neg hfb]
  | write d =>
    have hctrl : ¬ (width = 32#8 ∧ offset = 0x0#32 ∧ d.getLsbD 0 = true) := by
      rintro ⟨rfl, rfl, -⟩; exact hreg ⟨rfl, Nat.zero_lt_succ _, rfl⟩
    have hlen : ¬ (width = 32#8 ∧ offset = 0x8#32) := by
      rintro ⟨rfl, rfl⟩; exact hreg ⟨rfl, (by decide : 8 < 0x10000), (rfl : 8 % 4 = 0)⟩
    simp only [decodeAccess, if_neg hctrl, if_neg hlen, if_neg hfb]

/-- Settles O6: such an access decodes to HOST_WRITE_IGNORED, whose arm looks at the direction only. -/
theorem otherAccessesAreIgnored : Obligations.OtherAccessesAreIgnored := by
  intro a s hreg hfb
  rw [decodeAccess_of_misplaced hreg hfb]
  obtain ⟨dir, width, offset⟩ := a
  cases dir with
  | read => exact ⟨fun _ => rfl, fun h => absurd rfl h⟩
  | write d => exact ⟨nofun, fun _ => rfl⟩

/-! ## The schedule -/

/-- Settles O7: the next event of the schedule is the access. -/
theorem stepRunsHostOperation : Obligations.StepRunsHostOperation := by
  intro s a rest h
  simp only [step, h, applyEvent]

/-- An answer with another schedule. -/
def rescheduled (l : List Event) : Res → Res
  | .next t => .next { t with schedule := l }
  | .fault r => .fault r
  | .refused r => .refused r

/-- No operation reads or writes the schedule. -/
theorem exec_schedule (i : Instr) (s : State) (l : List Event) :
    exec i { s with schedule := l } = rescheduled l (exec i s) := by
  cases i with
  | ethParse => simp only [exec, execEthParse, apply_ite (rescheduled l)]; rfl
  | ipv4Parse => simp only [exec, execIpv4Parse, apply_ite (rescheduled l)]; rfl
  | netUnrecognized => rfl
  | icmpParse => simp only [exec, execIcmpParse, apply_ite (rescheduled l)]; rfl
  | tcpParse => simp only [exec, execTcpParse, apply_ite (rescheduled l)]; rfl
  | udpParse => simp only [exec, execUdpParse, apply_ite (rescheduled l)]; rfl
  | trnUnrecognized => rfl
  | hostStart => simp only [exec, execHostStart, apply_ite (rescheduled l)]; rfl
  | hostWriteFb a v =>
    simp only [exec, execHostWriteFb, State.writeFb, apply_ite (rescheduled l), apply_ite Host.Outcome.next]; rfl
  | hostWriteFrameLen => simp only [exec, execHostWriteFrameLen, apply_ite (rescheduled l)]; rfl
  | hostReadReg offset =>
    have hr : ({ s with schedule := l } : State).readReg offset = s.readReg offset := by
      unfold State.readReg
      cases regAt offset with
      | none => rfl
      | some r => cases r <;> rfl
    simp only [exec, execHostReadReg, hr, rescheduled]
  | hostReadFb => rfl
  | hostWriteIgnored access => obtain ⟨_ | _, _, _⟩ := access <;> rfl

theorem engineStep_schedule (s : State) (l : List Event) :
    engineStep { s with schedule := l } = rescheduled l (engineStep s) := by
  have hop : ({ s with schedule := l } : State).engineOp = s.engineOp := rfl
  simp only [engineStep, hop]
  cases s.engineOp with
  | none => rfl
  | some i => exact exec_schedule i s l

theorem applyEvent_schedule (e : Event) (s : State) (l : List Event) :
    applyEvent e { s with schedule := l } = rescheduled l (applyEvent e s) := by
  cases e with
  | engine => exact engineStep_schedule s l
  | bus a => exact exec_schedule (decodeAccess a) s l
  | reset => rfl
  | powerUp => rfl

/-- Settles O53, by induction on the events: a step takes the first one off, and its effect does not depend on the others. -/
theorem scheduleIsPlayedInOrder : Obligations.ScheduleIsPlayedInOrder := by
  intro es rest
  induction es with
  | nil => exact fun _ _ h => h
  | cons e es ih =>
    intro s t h
    have hstep : Sys2Proof.core.step { s with schedule := e :: es ++ rest } =
        rescheduled (es ++ rest) (applyEvent e s) := applyEvent_schedule e s (es ++ rest)
    simp only [runEvents, applyEvent_schedule] at h
    simp only [List.length_cons, Host.Core.run, hstep]
    cases hu : applyEvent e s with
    | next u => rw [hu] at h; exact ih u t h
    | fault r => rw [hu] at h; cases h
    | refused r => rw [hu] at h; cases h

/-! ## What an operation leaves unchanged -/

/-- The registers of the Ethernet and IPv4 layers agree. -/
def Results.SameNetwork (r r' : Results) : Prop :=
  r.ethDst = r'.ethDst ∧ r.ethSrc = r'.ethSrc ∧ r.ethType = r'.ethType ∧ r.ipVersion = r'.ipVersion ∧ r.ipHlen = r'.ipHlen ∧
    r.ipTtl = r'.ipTtl ∧ r.ipProto = r'.ipProto ∧ r.ipSrc = r'.ipSrc ∧ r.ipDst = r'.ipDst

theorem Results.SameNetwork.refl (r : Results) : r.SameNetwork r := ⟨rfl, rfl, rfl, rfl, rfl, rfl, rfl, rfl, rfl⟩

/-- The shapes of an engine operation's answer, at any stage: an abort, one layer accepted, or an end with success after the
registers of a transport header are written. -/
inductive OperationAnswer (s : State) : Instr → State → Prop where
  | abort {i : Instr} {kind : ErrKind} {layer : ErrLayer} : OperationAnswer s i (s.abort kind layer)
  | eth : OperationAnswer s .ethParse (ethAccept s)
  | ipv4 : OperationAnswer s .ipv4Parse (ipv4Accept s)
  | finish {i : Instr} {outcome : DissectionOutcome} (ho : outcome ≠ .failed) {r : Results} (hr : r.SameNetwork s.results)
      {off len : Nat} : OperationAnswer s i (State.finish outcome off len { s with results := r })

theorem exec_engineOp_answer {i : Instr} {s t : State} (hi : isEngineOp i = true) (h : exec i s = .next t) :
    OperationAnswer s i t := by
  -- `by exact` lets the goal fix the new registers first; they differ from `s.results` in a transport header only.
  have hnet : s.results.SameNetwork s.results := .refl _
  cases i with
  | ethParse =>
    obtain ⟨-, rfl⟩ | ⟨-, rfl⟩ := execEthParse_cases h
    · exact .abort
    · exact .eth
  | ipv4Parse =>
    obtain ⟨-, rfl⟩ | ⟨-, -, rfl⟩ | ⟨-, -, -, rfl⟩ | ⟨-, -, rfl⟩ := execIpv4Parse_cases h
    · exact .abort
    · exact .abort
    · exact .abort
    · exact .ipv4
  | netUnrecognized =>
    cases h
    exact .finish (r := s.results) (by decide) hnet
  | icmpParse =>
    obtain ⟨-, rfl⟩ | ⟨-, rfl⟩ := execIcmpParse_cases h
    · exact .abort
    · exact .finish (by decide) (by exact hnet)
  | tcpParse =>
    obtain ⟨-, rfl⟩ | ⟨-, -, rfl⟩ | ⟨-, -, -, rfl⟩ | ⟨-, -, rfl⟩ := execTcpParse_cases h
    · exact .abort
    · exact .abort
    · exact .abort
    · exact .finish (by decide) (by exact hnet)
  | udpParse =>
    obtain ⟨-, rfl⟩ | ⟨-, rfl⟩ := execUdpParse_cases h
    · exact .abort
    · exact .finish (by decide) (by exact hnet)
  | trnUnrecognized =>
    cases h
    exact .finish (r := s.results) (by decide) hnet
  | hostStart | hostWriteFb | hostWriteFrameLen | hostReadReg | hostReadFb | hostWriteIgnored => cases hi

/-- Neither the frame buffer nor FRAME_LEN nor a field of the model's own is among what an engine operation writes. -/
theorem OperationAnswer.frame {i : Instr} {s t : State} (h : OperationAnswer s i t) :
    (∀ a, t.fbByte a = s.fbByte a) ∧ t.frameLen = s.frameLen ∧ SameEnvironment t s := by
  cases h <;> exact ⟨fun _ => rfl, rfl, rfl, rfl, rfl, rfl⟩

/-- A transport operation aborts or ends with success (42_transport.md R181, R185, R190, R194). -/
theorem OperationAnswer.transport {i : Instr} {s t : State} (h : OperationAnswer s i t) (hi : isTransportOp i = true) :
    t.cursor = s.cursor ∧
      ((t.outcome = .failed ∧ t.results = Results.zero ∧ t.vmismatch = false) ∨
        (t.outcome ≠ .failed ∧ t.results.SameNetwork s.results ∧ t.vmismatch = s.vmismatch)) := by
  cases h with
  | abort => exact ⟨rfl, .inl ⟨rfl, rfl, rfl⟩⟩
  | eth => cases hi
  | ipv4 => cases hi
  | finish ho hr => exact ⟨rfl, .inr ⟨ho, hr, rfl⟩⟩

/-- Settles O45: the frame and the transport registers of each shape of answer. -/
theorem engineOperationFrame : Obligations.EngineOperationFrame := by
  intro i s t hi h
  have ha := exec_engineOp_answer hi h
  obtain ⟨hfb, hlen, henv⟩ := ha.frame
  refine ⟨hfb, hlen, henv, fun htr => ?_⟩
  obtain ⟨hcur, hfail | ⟨ho, hnet, hv⟩⟩ := ha.transport htr
  · exact ⟨hcur, .inl hfail⟩
  · obtain ⟨h1, h2, h3, h4, h5, h6, h7, h8, h9⟩ := hnet
    exact ⟨hcur, .inr ⟨ho, h1, h2, h3, h4, h5, h6, h7, h8, h9, hv⟩⟩

theorem engineStep_frame {s t : State} (h : engineStep s = .next t) :
    (∀ a, t.fbByte a = s.fbByte a) ∧ t.frameLen = s.frameLen := by
  cases engineStep_answer h <;> exact ⟨fun _ => rfl, rfl⟩

/-- Settles O44: an engine step keeps the frame, and a busy block drops every host write. -/
theorem busyFrameIsImmutable : Obligations.BusyFrameIsImmutable := by
  intro e s t hb he h
  obtain ⟨-, h⟩ | ⟨a, -, h⟩ | ⟨rfl, -⟩ | ⟨rfl, -⟩ := applyEvent_cases h
  · exact (engineStep_frame h).symm
  · obtain rfl | ⟨v, rfl⟩ | ⟨hn, -⟩ | ⟨hn, -⟩ | ⟨hn, -⟩ := exec_access_cases h
    · exact ⟨rfl, fun _ => rfl⟩
    · exact ⟨rfl, fun _ => rfl⟩
    all_goals cases hb.symm.trans hn
  · cases he
  · cases he

/-! ## Bytes of the frame buffer -/

/-- A write that changes a byte is a write of that byte, at an address FB has. -/
theorem State.writeFb_changes {s : State} {a b : Nat} {v : Byte} (hne : (s.writeFb a v).fbByte b ≠ s.fbByte b) :
    a = b ∧ (s.writeFb a v).fbByte b = v := by
  obtain rfl : a = b := by
    by_contra hab
    exact hne (State.fbByte_writeFb_other s v (Ne.symm hab))
  have ha : a < Config.fbSize := by
    by_contra hge
    exact hne (by rw [State.writeFb_of_ge v hge])
  exact ⟨rfl, State.fbByte_writeFb_same s v ha⟩

/-- The only operation that changes a byte of FB is HOST_WRITE_FB of it, while the block is not busy (20_memory.md R71). -/
theorem exec_changes_fbByte {i : Instr} {s t : State} {b : Nat} (h : exec i s = .next t) (hne : t.fbByte b ≠ s.fbByte b) :
    ∃ a v, i = .hostWriteFb a v ∧ a.toNat = b ∧ t.fbByte b = v ∧ s.busy = false := by
  have hop : isEngineOp i = false := by
    by_contra hi
    obtain ⟨hfb, -⟩ := (exec_engineOp_answer (Bool.eq_true_of_not_eq_false hi) h).frame
    exact hne (hfb b)
  cases i with
  | ethParse | ipv4Parse | netUnrecognized | icmpParse | tcpParse | udpParse | trnUnrecognized => cases hop
  | hostStart d =>
    simp only [exec, execHostStart] at h
    split_ifs at h <;> cases h <;> exact absurd rfl hne
  | hostWriteFb a v =>
    simp only [exec, execHostWriteFb] at h
    split_ifs at h with hb <;> cases h
    · exact absurd rfl hne
    · obtain ⟨hab, hv⟩ := State.writeFb_changes hne
      exact ⟨a, v, rfl, hab, hv, Bool.eq_false_of_not_eq_true hb⟩
  | hostWriteFrameLen d =>
    simp only [exec, execHostWriteFrameLen] at h
    split_ifs at h <;> cases h <;> exact absurd rfl hne
  | hostReadReg | hostReadFb => cases h; exact absurd rfl hne
  | hostWriteIgnored access =>
    obtain ⟨_ | _, _, _⟩ := access <;> cases h <;> exact absurd rfl hne

/-- Settles O46: engine steps and reset keep every byte, and of the host operations HOST_WRITE_FB alone does not. -/
theorem bytesAreStable : Obligations.BytesAreStable := by
  intro e s t b he h hne
  obtain ⟨-, h⟩ | ⟨acc, rfl, h⟩ | ⟨-, rfl⟩ | ⟨rfl, -⟩ := applyEvent_cases h
  · exact absurd ((engineStep_frame h).1 b) hne
  · obtain ⟨a, v, hi, hab, hv, hb⟩ := exec_changes_fbByte h hne
    exact ⟨a, v, acc, rfl, hi, hab, hv, hb⟩
  · exact absurd rfl hne
  · exact absurd rfl he

/-! ## A finished result -/

theorem SameResult.trans {s t u : State} (h : SameResult u t) (h' : SameResult t s) : SameResult u s := by
  obtain ⟨h1, h2, h3, h4⟩ := h
  obtain ⟨h1', h2', h3', h4'⟩ := h'
  exact ⟨h1.trans h1', h2.trans h2', h3.trans h3', h4.trans h4'⟩

/-- No access decodes to an engine operation. -/
theorem isEngineOp_decodeAccess (a : BusAccess) : isEngineOp (decodeAccess a) = false := by
  obtain ⟨_ | d, width, offset⟩ := a <;> simp only [decodeAccess] <;> split_ifs <;> rfl

/-- A host operation other than START writes FB, FRAME_LEN and the read data at most. -/
theorem exec_hostOp {i : Instr} (hi : isEngineOp i = false) (hstart : ∀ d, i ≠ .hostStart d) (s : State) :
    ∃ fb n v, exec i s = .next { s with fb := fb, frameLen := n, readData := v } := by
  cases i with
  | ethParse | ipv4Parse | netUnrecognized | icmpParse | tcpParse | udpParse | trnUnrecognized => cases hi
  | hostStart d => exact absurd rfl (hstart d)
  | hostWriteFb a v =>
    simp only [exec, execHostWriteFb, State.writeFb]
    split_ifs <;> exact ⟨_, _, _, rfl⟩
  | hostWriteFrameLen d =>
    simp only [exec, execHostWriteFrameLen]
    split_ifs <;> exact ⟨_, _, _, rfl⟩
  | hostReadReg | hostReadFb => exact ⟨_, _, _, rfl⟩
  | hostWriteIgnored access =>
    obtain ⟨_ | _, _, _⟩ := access <;> exact ⟨_, _, _, rfl⟩

/-- At DONE no event but a START, a reset and a power-up touches the result (20_memory.md R89). -/
theorem applyEvent_at_done {e : Event} {s : State} (hs : s.stage = .done) (he : ¬ e.endsResult) :
    ∃ t, applyEvent e s = .next t ∧ SameResult t s := by
  cases e with
  | engine =>
    refine ⟨s, ?_, rfl, rfl, rfl, rfl⟩
    simp only [applyEvent, engineStep, State.engineOp_done hs]
  | bus a =>
    obtain ⟨fb, n, v, hx⟩ := exec_hostOp (isEngineOp_decodeAccess a) (fun d hd => he (.inr (.inr ⟨a, d, rfl, hd⟩))) s
    exact ⟨_, hx, rfl, rfl, rfl, rfl⟩
  | reset => exact absurd (.inl rfl) he
  | powerUp => exact absurd (.inr (.inl rfl)) he

/-- Settles O47, by induction on the events: each one leaves the block at DONE with its result. -/
theorem resultStaysAtDone : Obligations.ResultStaysAtDone := by
  intro es
  induction es with
  | nil => exact fun s _ _ => ⟨s, rfl, rfl, rfl, rfl, rfl⟩
  | cons e es ih =>
    intro s hs hes
    obtain ⟨he, hes⟩ := List.forall_mem_cons.1 hes
    obtain ⟨u, hu, hsame⟩ := applyEvent_at_done hs he
    obtain ⟨t, ht, hsame'⟩ := ih u (hsame.1.trans hs) hes
    exact ⟨t, by simp only [runEvents, hu, ht], hsame'.trans hsame⟩

/-! ## What an engine operation depends on -/

/-- Both answer a next state, with the same registers. -/
inductive SameAnswer : Res → Res → Prop where
  | next {t t' : State} (h : SameRegisters t t') : SameAnswer (.next t) (.next t')

/-- Two states agree on `n` bytes of FB from an address on. -/
def SameBytes (s s' : State) (lo n : Nat) : Prop := ∀ a, lo ≤ a → a < lo + n → s.fbByte a = s'.fbByte a

theorem SameBytes.sub {s s' : State} {lo n : Nat} (h : SameBytes s s' lo n) (lo' n' : Nat) (h1 : lo ≤ lo' := by omega)
    (h2 : lo' + n' ≤ lo + n := by omega) : SameBytes s s' lo' n' :=
  fun a ha hb => h a (by omega) (by omega)

theorem SameBytes.memRead1 {s s' : State} {a : Nat} (h : SameBytes s s' a 1) : s.memRead1 a = s'.memRead1 a :=
  h a (Nat.le_refl a) (Nat.lt_succ_self a)

theorem SameBytes.memRead2 {s s' : State} {a : Nat} (h : SameBytes s s' a 2) : s.memRead2 a = s'.memRead2 a :=
  State.memRead2_congr h

theorem SameBytes.memRead4 {s s' : State} {a : Nat} (h : SameBytes s s' a 4) : s.memRead4 a = s'.memRead4 a :=
  State.memRead4_congr h

theorem SameBytes.memBytes4 {s s' : State} {a : Nat} (h : SameBytes s s' a 4) : s.memBytes4 a = s'.memBytes4 a :=
  State.memBytes4_congr h

theorem SameBytes.memBytes6 {s s' : State} {a : Nat} (h : SameBytes s s' a 6) : s.memBytes6 a = s'.memBytes6 a :=
  State.memBytes6_congr h

theorem SameFrame.sameBytes {s s' : State} (h : SameFrame s s') {lo n : Nat} (hn : lo + n ≤ s.frameLen.toNat) :
    SameBytes s s' lo n :=
  fun a _ hb => h.2 a (by omega)

theorem State.fits_of_not_lacks (s : State) {n : Nat} (h : ¬ s.lacks n = true) : n ≤ s.avail := by
  rwa [State.lacks_iff, Nat.not_lt] at h

section
variable {s s' : State} (h : SameRegisters s s')
include h

theorem SameRegisters.cursor : s.cursor = s'.cursor := by
  obtain ⟨-, -, hcur, -⟩ := h
  exact hcur

theorem SameRegisters.results : s.results = s'.results := by
  obtain ⟨-, -, -, -, -, -, -, hres⟩ := h
  exact hres

theorem SameRegisters.avail : s.avail = s'.avail := by
  obtain ⟨hlen, -, hcur, -⟩ := h
  simp only [State.avail, hlen, hcur]

theorem SameRegisters.lacks (n : Nat) : s.lacks n = s'.lacks n := by
  simp only [State.lacks, h.avail]

theorem SameRegisters.abort (kind : ErrKind) (layer : ErrLayer) : SameRegisters (s.abort kind layer) (s'.abort kind layer) := by
  obtain ⟨hlen, -, hcur, -⟩ := h
  exact ⟨hlen, rfl, hcur, rfl, rfl, rfl, rfl, rfl⟩

theorem SameRegisters.finish (outcome : DissectionOutcome) {off off' len len' : Nat} {r r' : Results} (hoff : off = off')
    (hn : len = len') (hr : r = r') :
    SameRegisters (State.finish outcome off len { s with results := r })
      (State.finish outcome off' len' { s' with results := r' }) := by
  obtain ⟨hlen, -, hcur, -, hkind, hlayer, hv, -⟩ := h
  subst hoff hn hr
  exact ⟨hlen, rfl, hcur, rfl, hkind, hlayer, hv, rfl⟩

end

/-- ETH_PARSE depends on the 14 bytes of its header, if they fit (30_encoding.md R101). -/
theorem execEthParse_congr {s s' : State} (h : SameRegisters s s') (hb : 14 ≤ s.avail → SameBytes s s' s.cursor.toNat 14) :
    SameAnswer (execEthParse s) (execEthParse s') := by
  unfold execEthParse
  rw [← h.lacks]
  split_ifs with hl
  · exact .next (h.abort _ _)
  · have hb := hb (s.fits_of_not_lacks hl)
    obtain ⟨hlen, -, hcur, ho, hkind, hlayer, hv, hres⟩ := h
    refine .next ⟨hlen, rfl, ?_, ho, hkind, hlayer, hv, ?_⟩
    · simp only [hcur]
    · simp only [← hcur, ← hres, (hb.sub s.cursor.toNat 6).memBytes6, (hb.sub (s.cursor.toNat + 6) 6).memBytes6,
        (hb.sub (s.cursor.toNat + 12) 2).memRead2]

/-- IPV4_PARSE depends on bytes 0, 8, 9 and 12 to 19 of its header, if 20 bytes fit (30_encoding.md R102). -/
theorem execIpv4Parse_congr {s s' : State} (h : SameRegisters s s')
    (hb : 20 ≤ s.avail → SameBytes s s' s.cursor.toNat 1 ∧ SameBytes s s' (s.cursor.toNat + 8) 2 ∧
      SameBytes s s' (s.cursor.toNat + 12) 8) : SameAnswer (execIpv4Parse s) (execIpv4Parse s') := by
  unfold execIpv4Parse
  rw [← h.lacks]
  by_cases hl : s.lacks Config.ipv4MinLen = true
  · simp only [if_pos hl]
    exact .next (h.abort _ _)
  · obtain ⟨hb0, hb8, hb12⟩ := hb (s.fits_of_not_lacks hl)
    have hcur := h.cursor
    have hfirst : s'.ipv4FirstByte = s.ipv4FirstByte := by
      simp only [State.ipv4FirstByte, ← hcur, hb0.memRead1]
    simp only [if_neg hl, hfirst, ← h.lacks]
    split_ifs
    · exact .next (h.abort _ _)
    · exact .next (h.abort _ _)
    · obtain ⟨hlen, -, -, ho, hkind, hlayer, -, hres⟩ := h
      refine .next ⟨hlen, rfl, ?_, ho, hkind, hlayer, ?_, ?_⟩
      · simp only [ipv4Accept, hfirst, hcur]
      · simp only [ipv4Accept, hfirst]
      · simp only [ipv4Accept, hfirst, ← hcur, ← hres, (hb8.sub (s.cursor.toNat + 8) 1).memRead1,
          (hb8.sub (s.cursor.toNat + 9) 1).memRead1, (hb12.sub (s.cursor.toNat + 12) 4).memBytes4,
          (hb12.sub (s.cursor.toNat + 16) 4).memBytes4]

/-- ICMP_PARSE depends on the 4 bytes it needs, if they fit (30_encoding.md R103). -/
theorem execIcmpParse_congr {s s' : State} (h : SameRegisters s s') (hb : 4 ≤ s.avail → SameBytes s s' s.cursor.toNat 4) :
    SameAnswer (execIcmpParse s) (execIcmpParse s') := by
  unfold execIcmpParse
  rw [← h.lacks]
  split_ifs with hl
  · exact .next (h.abort _ _)
  · have hb := hb (s.fits_of_not_lacks hl)
    refine .next (h.finish _ (by rw [h.cursor]) (by rw [h.avail]) ?_)
    simp only [← h.cursor, h.results, (hb.sub s.cursor.toNat 1).memRead1, (hb.sub (s.cursor.toNat + 1) 1).memRead1,
      (hb.sub (s.cursor.toNat + 2) 2).memRead2]

/-- TCP_PARSE depends on the first 12 bytes of its header, the data offset and the flags, if 14 bytes fit (30_encoding.md
R104, R105). -/
theorem execTcpParse_congr {s s' : State} (h : SameRegisters s s')
    (hb : 14 ≤ s.avail → SameBytes s s' s.cursor.toNat 12 ∧ dataOffsetOf s.tcpWord = dataOffsetOf s'.tcpWord ∧
      tcpFlagsOf s.tcpWord = tcpFlagsOf s'.tcpWord) : SameAnswer (execTcpParse s) (execTcpParse s') := by
  unfold execTcpParse
  rw [← h.lacks]
  by_cases hl : s.lacks Config.tcpPrefixLen = true
  · simp only [if_pos hl]
    exact .next (h.abort _ _)
  · obtain ⟨hb, hoff, hflags⟩ := hb (s.fits_of_not_lacks hl)
    simp only [if_neg hl, ← hoff, ← h.lacks]
    split_ifs
    · exact .next (h.abort _ _)
    · exact .next (h.abort _ _)
    · refine .next (h.finish _ (by rw [hoff, h.cursor]) (by rw [hoff, h.avail]) ?_)
      simp only [hoff, hflags, ← h.cursor, h.results, (hb.sub s.cursor.toNat 2).memRead2,
        (hb.sub (s.cursor.toNat + 2) 2).memRead2, (hb.sub (s.cursor.toNat + 4) 4).memRead4,
        (hb.sub (s.cursor.toNat + 8) 4).memRead4]

/-- UDP_PARSE depends on the first 6 bytes of its header, if its 8 bytes fit (30_encoding.md R106). -/
theorem execUdpParse_congr {s s' : State} (h : SameRegisters s s') (hb : 8 ≤ s.avail → SameBytes s s' s.cursor.toNat 6) :
    SameAnswer (execUdpParse s) (execUdpParse s') := by
  unfold execUdpParse
  rw [← h.lacks]
  split_ifs with hl
  · exact .next (h.abort _ _)
  · have hb := hb (s.fits_of_not_lacks hl)
    refine .next (h.finish _ (by rw [h.cursor]) (by rw [h.avail]) ?_)
    simp only [← h.cursor, h.results, (hb.sub s.cursor.toNat 2).memRead2, (hb.sub (s.cursor.toNat + 2) 2).memRead2,
      (hb.sub (s.cursor.toNat + 4) 2).memRead2]

/-- An end without a header depends on the registers alone (40_ethernet.md R145, 42_transport.md R194). -/
theorem SameRegisters.finishAtCursor {s s' : State} (h : SameRegisters s s') (outcome : DissectionOutcome) :
    SameRegisters (s.finish outcome s.cursor.toNat s.avail) (s'.finish outcome s'.cursor.toNat s'.avail) :=
  h.finish outcome (by rw [h.cursor]) h.avail h.results

/-- An engine operation depends on the registers and on bytes from CURSOR on that lie in the frame (20_memory.md R75). -/
theorem exec_engineOp_congr {i : Instr} {s s' : State} (hi : isEngineOp i = true) (h : SameRegisters s s')
    (hb : ∀ n, n ≤ s.avail → SameBytes s s' s.cursor.toNat n) : SameAnswer (exec i s) (exec i s') := by
  cases i with
  | ethParse => exact execEthParse_congr h (hb 14)
  | ipv4Parse =>
    refine execIpv4Parse_congr h fun hn => ?_
    have hb := hb 20 hn
    exact ⟨hb.sub _ _, hb.sub _ _, hb.sub _ _⟩
  | netUnrecognized => exact .next (h.finishAtCursor _)
  | icmpParse => exact execIcmpParse_congr h (hb 4)
  | tcpParse =>
    refine execTcpParse_congr h fun hn => ?_
    have hb := hb 14 hn
    have hword : s.tcpWord = s'.tcpWord := by
      simp only [State.tcpWord, ← h.cursor, (hb.sub (s.cursor.toNat + 12) 2).memRead2]
    exact ⟨hb.sub _ _, by rw [hword], by rw [hword]⟩
  | udpParse => exact execUdpParse_congr h fun hn => (hb 8 hn).sub _ _
  | trnUnrecognized => exact .next (h.finishAtCursor _)
  | hostStart | hostWriteFb | hostWriteFrameLen | hostReadReg | hostReadFb | hostWriteIgnored => cases hi

/-- Settles O48: every byte an operation depends on lies between CURSOR and FRAME_LEN. -/
theorem engineReadsOnlyTheFrame : Obligations.EngineReadsOnlyTheFrame := by
  intro i s s' t t' hi hc h hf ht ht'
  have hb : ∀ n, n ≤ s.avail → SameBytes s s' s.cursor.toNat n := by
    intro n hn
    refine hf.sameBytes ?_
    simp only [State.avail] at hn
    omega
  have ha := exec_engineOp_congr hi h hb
  rw [ht, ht'] at ha
  cases ha with
  | next hr => exact hr

/-! ## Bus windows -/

/-- Two instances whose windows hold one address have one window (20_memory.md R85). -/
theorem State.fpWindow_eq_of_mem {s s' : State} {address : Nat}
    (h1 : s.fpBase.toNat ≤ address) (h2 : address < s.fpBase.toNat + 0x20000)
    (h1' : s'.fpBase.toNat ≤ address) (h2' : address < s'.fpBase.toNat + 0x20000) : s.fpWindow = s'.fpWindow := by
  rw [State.fpBase_toNat] at h1 h2 h1' h2'
  apply BitVec.eq_of_toNat_eq
  omega

/-- In a window the offset is the address less FP_BASE, with no wrap (20_memory.md R85). -/
theorem State.offsetOf_eq {s : State} {address : Word} (h : s.fpBase.toNat ≤ address.toNat) :
    s.offsetOf address = BitVec.ofNat 32 (address.toNat - s.fpBase.toNat) := by
  apply BitVec.eq_of_toNat_eq
  have := address.isLt
  simp only [State.offsetOf, BitVec.toNat_sub, BitVec.toNat_ofNat]
  omega

theorem State.posted_eq (dir : Direction) (width : Byte) (address : Word) (s : State) :
    s.posted dir width address =
      if s.fpBase.toNat ≤ address.toNat ∧ address.toNat < s.fpBase.toNat + 0x20000 then
        { s with schedule := s.schedule ++ [.bus ⟨dir, width, BitVec.ofNat 32 (address.toNat - s.fpBase.toNat)⟩] }
      else s := by
  simp only [State.posted, State.inWindow_iff]
  split_ifs with h
  · rw [State.offsetOf_eq h.1]
  · rfl

theorem System.wf_post {sys : System} (h : sys.wf) (dir : Direction) (width : Byte) (address : Word) :
    (sys.post dir width address).wf := by
  have hw : State.fpWindow ∘ State.posted dir width address = State.fpWindow := by
    funext s
    exact s.posted_fpWindow dir width address
  simpa only [System.wf, System.nInstances, System.post, List.length_map, List.map_map, hw] using h

/-- Settles O58: FP_BASE determines the window, and no two blocks of a system have one. -/
theorem busAddressNamesOneInstance : Obligations.BusAddressNamesOneInstance := by
  refine ⟨fun s => ?_, fun sys j k s s' address hwf hj hk h1 h2 h1' h2' => ?_,
    fun sys dir width address hwf => System.wf_post hwf dir width address, fun sys dir width address k s hk => ?_⟩
  · rw [s.fpBase_toNat]
    exact Nat.mul_mod_left ..
  · have hw := State.fpWindow_eq_of_mem h1 h2 h1' h2'
    obtain ⟨hlt, -⟩ := List.getElem?_eq_some_iff.1 hj
    refine (List.getElem?_inj (by simpa using hlt) hwf.2).1 ?_
    rw [List.getElem?_map, List.getElem?_map, hj, hk, Option.map_some, Option.map_some, hw]
  · rw [← State.posted_eq]
    simp only [System.post, List.getElem?_map, hk, Option.map_some]

end Sys2Proof.Machine
end

section
/-! PROOFS. The family 30_encoding.md: what the dispatch table and the bus decode, the operation words, the bits of headers and the
header pseudo-instructions (O1, O2, O3, O4, O5, O9, O22, O49, O54). -/

namespace Sys2Proof.Machine

/-! ## The dispatch table -/

/-- Settles O3: the table as one case split on the stage field. -/
theorem dispatchTableSelects : Obligations.DispatchTableSelects := by
  intro code
  refine ⟨?_, ?_, ?_, fun stage h1 h2 h3 => ?_⟩
  · rw [decodeSelector_append, if_pos rfl]
  · rw [decodeSelector_append, if_neg (by decide), if_pos rfl]
  · rw [decodeSelector_append, if_neg (by decide), if_neg (by decide), if_pos rfl]
  · rw [decodeSelector_append, if_neg h1, if_neg h2, if_neg h3]

/-- The stage field of a selector that has a row (30_encoding.md R117). -/
theorem stage_of_decodeSelector {stage : BitVec 3} {code : Half} {i : Instr} (h : decodeSelector (stage ++ code) = some i) :
    stage = 1#3 ∨ stage = 2#3 ∨ stage = 3#3 := by
  rw [decodeSelector_append] at h
  split_ifs at h with h1 h2 h3
  all_goals simp only [*, true_or, or_true]

theorem selector_toNat (stage : BitVec 3) (code : Half) : (stage ++ code).toNat = stage.toNat * 0x10000 + code.toNat :=
  toNat_append_eq_add ..

/-- Settles O4: the stage field is worth 0x10000 times the stage. -/
theorem selectorFormed : Obligations.SelectorFormed := by
  intro s
  refine ⟨fun h => ?_, fun h => ⟨2#3 ++ s.results.ethType, ?_, selector_toNat ..⟩,
    fun h => ⟨3#3 ++ s.results.ipProto.setWidth 16, ?_, ?_⟩, fun h => ?_⟩
  · simp only [State.selector, h]
    rfl
  · simp only [State.selector, h]
  · simp only [State.selector, h]
  · rw [selector_toNat, BitVec.toNat_setWidth_of_le (by decide)]
    rfl
  · obtain h | h := h <;> simp only [State.selector, h]

/-- Settles O2: one case per row of the table. -/
theorem selectorEncodesBack : Obligations.SelectorEncodesBack := by
  intro stage code i h
  rw [decodeSelector_append] at h
  split_ifs at h <;> cases h <;> subst_vars
  · rw [if_pos rfl]
    rfl
  all_goals rfl

/-! ## Operation words -/

/-- A selector that has a row lies in the range the decoder reads as a selector. -/
theorem toNat_of_decodeSelector {sel : BitVec 19} {i : Instr} (h : decodeSelector sel = some i) :
    0x10000 ≤ sel.toNat ∧ sel.toNat < 0x40000 := by
  rw [← selector_parts sel] at h ⊢
  have hcode := (selectorCode sel).isLt
  rw [selector_toNat]
  obtain hs | hs | hs := stage_of_decodeSelector h <;> simp only [hs, BitVec.toNat_ofNat] <;> omega

theorem decodeWord_tableWord {sel : BitVec 19} {i : Instr} (h : decodeSelector sel = some i) :
    decodeWord (tableWord sel) = .ok i := by
  obtain ⟨hlo, hhi⟩ := toNat_of_decodeSelector h
  simp only [decodeWord, readWord_tableWord sel hlo hhi, Fetched.instr, h]

theorem decodeWord_accessWord (a : BusAccess) : decodeWord (accessWord a) = .ok (decodeAccess a) := by
  simp only [decodeWord, readWord_accessWord, Fetched.instr]

/-! ## The access of each host operation -/

theorem fbOffset_toNat (a : Half) : (fbOffset a).toNat = 0x10000 + a.toNat := by
  have := a.isLt
  simp only [fbOffset, BitVec.toNat_add, BitVec.toNat_ofNat, BitVec.toNat_setWidth]
  omega

theorem fbOffset_setWidth (a : Half) : (fbOffset a).setWidth 16 = a := by
  apply BitVec.eq_of_toNat_eq
  rw [BitVec.toNat_setWidth, fbOffset_toNat]
  omega

/-- An FB address gives an offset of the FB window (10_state.md R49). -/
theorem fbOffset_inWindow {a : Half} (h : a.toNat < Config.fbSize) :
    0x10000 ≤ (fbOffset a).toNat ∧ (fbOffset a).toNat ≤ 0x1FFFE := by
  rw [fbOffset_toNat]
  exact ⟨Nat.le_add_right .., by simp only [Config.fbSize] at h; omega⟩

theorem decodeAccess_start {d : Word} (h : d.getLsbD 0 = true) : decodeAccess ⟨.write d, 32#8, 0x0#32⟩ = .hostStart d := by
  simp only [decodeAccess, h, and_self, if_true]

theorem decodeAccess_writeFrameLen (d : Word) : decodeAccess ⟨.write d, 32#8, 0x8#32⟩ = .hostWriteFrameLen d := rfl

theorem decodeAccess_writeFb {a : Half} (d : Word) (h : a.toNat < Config.fbSize) :
    decodeAccess ⟨.write d, 8#8, fbOffset a⟩ = .hostWriteFb a (d.setWidth 8) := by
  have h32 : 8#8 ≠ 32#8 := by decide
  simp only [decodeAccess, h32, false_and, if_false, true_and, if_pos (fbOffset_inWindow h), fbOffset_setWidth]

theorem decodeAccess_readFb {a : Half} (h : a.toNat < Config.fbSize) :
    decodeAccess ⟨.read, 8#8, fbOffset a⟩ = .hostReadFb a := by
  have h32 : 8#8 ≠ 32#8 := by decide
  simp only [decodeAccess, h32, false_and, if_false, true_and, if_pos (fbOffset_inWindow h), fbOffset_setWidth]

theorem decodeAccess_readReg {o : Half} (h : o.toNat % 4 = 0) :
    decodeAccess ⟨.read, 32#8, o.setWidth 32⟩ = .hostReadReg o := by
  have ho : (o.setWidth 32).toNat = o.toNat := BitVec.toNat_setWidth_of_le (by decide)
  have hlt := o.isLt
  simp only [decodeAccess, ho, h, and_true, true_and, if_pos hlt, BitVec.setWidth_setWidth_of_le o (by decide : 16 ≤ 32),
    BitVec.setWidth_eq]

/-- The FB window's offsets as the decoder bounds them (10_state.md R49). -/
theorem inFbWindow_iff (a : BusAccess) :
    a.inFbWindow = true ↔ 0x10000 ≤ a.offset.toNat ∧ a.offset.toNat ≤ 0x1FFFE := by
  simp only [BusAccess.inFbWindow, Config.fbSize, Bool.and_eq_true, decide_eq_true_eq]
  omega

/-- The check of an ignored access excludes the five accesses that are decoded (20_memory.md R82, 43_dissector.md R222). -/
theorem decodeAccess_eq_ignored_iff (a : BusAccess) : decodeAccess a = .hostWriteIgnored a ↔ a.ignored = true := by
  have hwin := inFbWindow_iff a
  obtain ⟨dir, width, offset⟩ := a
  cases dir with
  | read =>
    simp only [decodeAccess, BusAccess.ignored, Bool.and_eq_true, Bool.not_eq_true', ← Bool.not_eq_true, beq_iff_eq,
      decide_eq_true_eq, hwin, and_assoc]
    split_ifs with hreg hfb
    · exact iff_of_false nofun fun h => h.2 hreg
    · exact iff_of_false nofun fun h => h.1 hfb
    · exact iff_of_true rfl ⟨hfb, hreg⟩
  | write d =>
    simp only [decodeAccess, BusAccess.ignored, Bool.and_eq_true, Bool.not_eq_true', ← Bool.not_eq_true, beq_iff_eq, hwin,
      and_assoc]
    split_ifs with hstart hlen hfb
    · exact iff_of_false nofun fun ⟨_, h, _⟩ => h hstart
    · exact iff_of_false nofun fun ⟨_, _, h⟩ => h hlen
    · exact iff_of_false nofun fun ⟨h, _, _⟩ => h hfb
    · exact iff_of_true rfl ⟨hfb, hstart, hlen⟩

theorem decodeWord_encodeWord {i : Instr} (h : i.wf = true) : decodeWord (encodeWord i) = .ok i := by
  cases i with
  | ethParse => exact decodeWord_tableWord rfl
  | ipv4Parse => exact decodeWord_tableWord rfl
  | netUnrecognized code =>
    have hcode : code ≠ 0x0800#16 := by simpa [Instr.wf] using h
    obtain ⟨-, hnet, -, -⟩ := dispatchTableSelects code
    exact decodeWord_tableWord (hnet.trans (if_neg hcode))
  | icmpParse => exact decodeWord_tableWord rfl
  | tcpParse => exact decodeWord_tableWord rfl
  | udpParse => exact decodeWord_tableWord rfl
  | trnUnrecognized code =>
    have hcode : (code ≠ 1#16 ∧ code ≠ 6#16) ∧ code ≠ 17#16 := by simpa [Instr.wf] using h
    obtain ⟨⟨h1, h6⟩, h17⟩ := hcode
    obtain ⟨-, -, htrn, -⟩ := dispatchTableSelects code
    exact decodeWord_tableWord (htrn.trans (by rw [if_neg h1, if_neg h6, if_neg h17]))
  | hostStart d => exact (decodeWord_accessWord _).trans (congrArg _ (decodeAccess_start h))
  | hostWriteFb a v =>
    have hv : (v.setWidth 32).setWidth 8 = v := by simp
    rw [encodeWord, decodeWord_accessWord, decodeAccess_writeFb _ (of_decide_eq_true h), hv]
  | hostWriteFrameLen d => exact decodeWord_accessWord _
  | hostReadReg o => exact (decodeWord_accessWord _).trans (congrArg _ (decodeAccess_readReg (eq_of_beq h)))
  | hostReadFb a => exact (decodeWord_accessWord _).trans (congrArg _ (decodeAccess_readFb (of_decide_eq_true h)))
  | hostWriteIgnored a => exact (decodeWord_accessWord a).trans (congrArg _ ((decodeAccess_eq_ignored_iff a).2 h))

/-- Settles O1: the ten bytes are the word, and a word is read back as its selector or its access. -/
theorem decodeEncodeRoundTrip : Obligations.DecodeEncodeRoundTrip := by
  intro i rest h
  rw [encode, decode_bytesOfWord, decodeWord_encodeWord h]

/-- Settles O5: each word is the encoding of its operation. -/
theorem writtenWordsDecode : Obligations.WrittenWordsDecode :=
  ⟨decodeEncodeRoundTrip .ethParse [] rfl, decodeEncodeRoundTrip .ipv4Parse [] rfl,
    decodeEncodeRoundTrip (.netUnrecognized 0x0806) [] rfl, decodeEncodeRoundTrip .tcpParse [] rfl,
    decodeEncodeRoundTrip (.hostStart 1) [] rfl, decodeEncodeRoundTrip (.hostWriteFb 5 0xAA) [] rfl,
    decodeEncodeRoundTrip (.hostReadReg 4) [] rfl⟩

/-! ## Placed words -/

/-- What a table word with an operation is fetched as. -/
theorem fetched_of_decodeTableWord {nbits w : Nat} {i : Instr} (h : decodeTableWord nbits w = some i) :
    ∃ f, readWord (wordOfTable nbits w) = .ok f ∧ f.instr = .ok i := by
  have hd := decode_bytesOfWord (wordOfTable nbits w) []
  rw [List.append_nil, decodeWord] at hd
  rw [decodeTableWord, hd] at h
  cases hf : readWord (wordOfTable nbits w) with
  | error e => simp only [hf, reduceCtorEq] at h
  | ok f =>
    cases hi : f.instr with
    | error e => simp only [hf, hi, reduceCtorEq] at h
    | ok j =>
      simp only [hf, hi, Option.some.injEq] at h
      exact ⟨f, rfl, h ▸ hi⟩

theorem decodeSelector_of_instr {sel : BitVec 19} {i : Instr} (h : (Fetched.selector sel).instr = .ok i) :
    decodeSelector sel = some i := by
  cases hd : decodeSelector sel with
  | none => simp only [Fetched.instr, hd, reduceCtorEq] at h
  | some j => simpa only [Fetched.instr, hd, Except.ok.injEq, Option.some.injEq] using h

theorem State.withFetchWord_of_ok {nbits w : Nat} {f : Fetched} (h : readWord (wordOfTable nbits w) = .ok f) (s : State) :
    s.withFetchWord nbits w = s.place f := by
  simp only [State.withFetchWord, h]

/-- A scheduled engine step runs the operation of the first row that matches the selector (43_dissector.md R213). -/
theorem step_of_selector {s : State} {rest : List Event} {sel : BitVec 19} {i : Instr} (hr : s.schedule = .engine :: rest)
    (hs : s.selector = some sel) (hi : decodeSelector sel = some i) : step s = exec i { s with schedule := rest } := by
  have hop : ({ s with schedule := rest } : State).engineOp = some i := by
    rw [State.engineOp, show ({ s with schedule := rest } : State).selector = some sel from hs]
    exact hi
  simp only [step, hr, applyEvent, engineStep, hop]

/-- A protocol's code is rebuilt from the placed IP_PROTO (30_encoding.md R116). -/
theorem protoOfCode_setWidth {code : Half} (h : code.toNat < 0x100) : (protoOfCode code).setWidth 16 = code := by
  apply BitVec.eq_of_toNat_eq
  simp only [protoOfCode, if_pos h, BitVec.toNat_setWidth]
  omega

/-- Codes that no protocol has select TRN_UNRECOGNIZED (30_encoding.md R119; log 14). -/
theorem decodeSelector_wideCode {code : Half} (h : ¬ code.toNat < 0x100) :
    decodeSelector (3#3 ++ code) = some (.trnUnrecognized code) := by
  obtain ⟨-, -, htrn, -⟩ := dispatchTableSelects code
  rw [htrn, if_neg, if_neg, if_neg] <;> (rintro rfl; exact h (by decide))

/-- The engine step of a placed selector runs the selector's operation. -/
theorem step_placeSelector {sel : BitVec 19} {i : Instr} (h : decodeSelector sel = some i) (s : State) :
    step (s.placeSelector sel) = exec i { s.placeSelector sel with schedule := s.schedule } := by
  obtain ⟨stage, code, rfl⟩ : ∃ stage code, sel = stage ++ code := ⟨_, _, (selector_parts sel).symm⟩
  rw [State.placeSelector, selectorStage_append, selectorCode_append]
  obtain rfl | rfl | rfl := stage_of_decodeSelector h
  · rw [if_pos rfl]
    have heth : decodeSelector (1#3 ++ 0#16) = decodeSelector (1#3 ++ code) :=
      (dispatchTableSelects _).1.trans (dispatchTableSelects _).1.symm
    exact step_of_selector (sel := 1#3 ++ 0#16) rfl rfl (heth.trans h)
  · rw [if_neg (by decide), if_pos rfl]
    exact step_of_selector (sel := 2#3 ++ code) rfl rfl h
  · rw [if_neg (by decide), if_neg (by decide), if_pos rfl]
    by_cases hc : code.toNat < 0x100
    · refine step_of_selector (sel := 3#3 ++ code) rfl ?_ h
      exact congrArg (fun c => some (3#3 ++ c)) (protoOfCode_setWidth hc)
    · obtain rfl : .trnUnrecognized code = i := Option.some.inj ((decodeSelector_wideCode hc).symm.trans h)
      have hproto : protoOfCode code = 0xFF#8 := if_neg hc
      rw [hproto]
      exact step_of_selector (sel := 3#3 ++ 0xFF#16) (i := .trnUnrecognized 0xFF#16) rfl rfl rfl

/-- Settles O9: a placed access is the next event, and a placed selector the one the engine forms. -/
theorem fetchedWordRuns : Obligations.FetchedWordRuns := by
  intro s nbits w i h
  obtain ⟨f, hf, hi⟩ := fetched_of_decodeTableWord h
  rw [State.withFetchWord_of_ok hf]
  cases f with
  | selector sel => exact step_placeSelector (decodeSelector_of_instr hi) s
  | access a =>
    obtain rfl : decodeAccess a = i := Except.ok.inj hi
    rfl

/-! ## TCP flags -/

theorem tcpFlagsOf_getLsbD (w : Half) {j : Nat} (hj : j < 6) : (tcpFlagsOf w).getLsbD j = w.getLsbD j := by
  rw [tcpFlagsOf, BitVec.getLsbD_extractLsb', decide_eq_true hj, Bool.true_and, Nat.zero_add]

/-- Flipping bit `i` of a word changes that bit alone. -/
theorem getLsbD_flip_ne_iff (w : Half) {i j : Nat} (hi : i < 16) :
    (w ^^^ BitVec.twoPow 16 i).getLsbD j ≠ w.getLsbD j ↔ i = j := by
  rw [BitVec.getLsbD_xor, BitVec.getLsbD_twoPow, decide_eq_true hi, Bool.true_and]
  by_cases h : i = j <;> simp [h]

/-- A TCP_PARSE that does not fail ends as `tcpAccept` (42_transport.md R185). -/
theorem execTcpParse_accept {s t : State} (h : execTcpParse s = .next t) (ht : t.outcome ≠ .failed) : t = tcpAccept s := by
  obtain ⟨-, rfl⟩ | ⟨-, -, rfl⟩ | ⟨-, -, -, rfl⟩ | ⟨-, -, rfl⟩ := execTcpParse_cases h
  · exact absurd rfl ht
  · exact absurd rfl ht
  · exact absurd rfl ht
  · rfl

/-- Settles O22: the flags are bits 5:0 of the word, so a flip is seen by the flag of its own bit only. -/
theorem tcpFlagsAreBitTests : Obligations.TcpFlagsAreBitTests := by
  refine ⟨fun w j hj => tcpFlagsOf_getLsbD w hj, fun w i j hi hj => ?_, fun s t h _ ht => ?_⟩
  · rw [tcpFlagsOf_getLsbD _ hj, tcpFlagsOf_getLsbD _ hj, getLsbD_flip_ne_iff w (by omega)]
  · rw [execTcpParse_accept h ht]
    rfl

/-! ## Ignored bytes and bits -/

theorem SameAnswer.sameRegisters {r r' : Res} {t t' : State} (h : SameAnswer r r') (ht : r = .next t) (ht' : r' = .next t') :
    SameRegisters t t' := by
  subst ht ht'
  cases h with
  | next h => exact h

/-- Agreement at offsets `k` to `k + n - 1` from an address. -/
theorem sameBytes_of_offsets {s s' : State} {c k n : Nat}
    (h : ∀ j, k ≤ j → j < k + n → s.fbByte (c + j) = s'.fbByte (c + j)) : SameBytes s s' (c + k) n := by
  intro a ha hb
  obtain ⟨j, rfl⟩ := Nat.exists_eq_add_of_le (Nat.le_of_add_right_le ha)
  exact h j (by omega) (by omega)

/-- The data offset and the flags of the TCP word see the high nibble of byte 12 and the low six bits of byte 13. -/
theorem SameRegisters.tcpWord_fields {s s' : State} (h : SameRegisters s s') (hoff : s.dataOffset = s'.dataOffset)
    (hflags : (s.fbByte (s.cursor.toNat + 13)).setWidth 6 = (s'.fbByte (s.cursor.toNat + 13)).setWidth 6) :
    dataOffsetOf s.tcpWord = dataOffsetOf s'.tcpWord ∧ tcpFlagsOf s.tcpWord = tcpFlagsOf s'.tcpWord := by
  constructor
  · apply BitVec.eq_of_toNat_eq
    rw [State.dataOffsetOf_toNat, State.dataOffsetOf_toNat, hoff]
  · simp only [State.tcpWord, State.memRead2, tcpFlagsOf_append, ← h.cursor, hflags]

/-- Settles O49: the listed bytes are those the operations depend on. -/
theorem ignoredBitsChangeNothing : Obligations.IgnoredBitsChangeNothing := by
  intro s s' h
  refine ⟨fun t t' hb ht ht' => ?_, fun t t' hb hoff hflags ht ht' => ?_, fun t t' hb ht ht' => ?_⟩
  · have hbytes : ∀ k n, (∀ j, k ≤ j → j < k + n → j ∈ [0, 8, 9, 12, 13, 14, 15, 16, 17, 18, 19]) →
        SameBytes s s' (s.cursor.toNat + k) n := fun k n hj => sameBytes_of_offsets fun j h1 h2 => hb j (hj j h1 h2)
    refine (execIpv4Parse_congr h fun _ => ⟨hbytes 0 1 ?_, hbytes 8 2 ?_, hbytes 12 8 ?_⟩).sameRegisters ht ht'
    all_goals
      intro j h1 h2
      simp only [List.mem_cons, List.not_mem_nil]
      omega
  · refine (execTcpParse_congr h fun _ => ⟨?_, h.tcpWord_fields hoff hflags⟩).sameRegisters ht ht'
    exact sameBytes_of_offsets (k := 0) fun j _ h2 => hb j (by omega)
  · refine (execUdpParse_congr h fun _ => ?_).sameRegisters ht ht'
    exact sameBytes_of_offsets (k := 0) fun j _ h2 => hb j (by omega)

/-! ## Bytes of the frame buffer as a list -/

/-- FB holds a run of bytes from an address on. -/
def State.Holds (s : State) (a : Nat) (bytes : List Byte) : Prop := s.fbRun a bytes.length = bytes

theorem State.length_fbRun (s : State) (a n : Nat) : (s.fbRun a n).length = n := by
  induction n generalizing a with
  | zero => rfl
  | succ n ih => rw [State.fbRun, List.length_cons, ih]

theorem State.holds_of_fbRun {s : State} {a n : Nat} {bytes : List Byte} (h : s.fbRun a n = bytes) : s.Holds a bytes := by
  rw [State.Holds, ← h, State.length_fbRun]

@[simp] theorem State.holds_nil (s : State) (a : Nat) : s.Holds a [] := rfl

@[simp] theorem State.holds_cons (s : State) (a : Nat) (b : Byte) (bytes : List Byte) :
    s.Holds a (b :: bytes) ↔ s.fbByte a = b ∧ s.Holds (a + 1) bytes := by
  rw [State.Holds, List.length_cons, State.fbRun, List.cons.injEq, State.Holds]

@[simp] theorem State.holds_append (s : State) (a : Nat) (l l' : List Byte) :
    s.Holds a (l ++ l') ↔ s.Holds a l ∧ s.Holds (a + l.length) l' := by
  induction l generalizing a with
  | nil => simp
  | cons b l ih => simp [ih, and_assoc, Nat.add_assoc, Nat.add_comm 1]

/-! ## The bytes of a field as the value that is read (20_memory.md R73, R74) -/

@[simp] theorem length_bytes2 (v : Half) : (bytes2 v).length = 2 := rfl
@[simp] theorem length_bytes4 (v : Word) : (bytes4 v).length = 4 := rfl
@[simp] theorem length_bytes6 (v : Mac) : (bytes6 v).length = 6 := rfl

theorem State.Holds.memRead2 {s : State} {a : Nat} {v : Half} (h : s.Holds a (bytes2 v)) : s.memRead2 a = v := by
  simp only [bytes2, State.holds_cons] at h
  obtain ⟨h0, h1, -⟩ := h
  rw [State.memRead2, h0, h1]
  exact BitVec.extractLsb'_append_extractLsb'

theorem State.Holds.memRead4 {s : State} {a : Nat} {v : Word} (h : s.Holds a (bytes4 v)) : s.memRead4 a = v := by
  simp only [bytes4, State.holds_cons] at h
  obtain ⟨h0, h1, h2, h3, -⟩ := h
  rw [State.memRead4, h0, h1, h2, h3]
  rw [BitVec.extractLsb'_append_extractLsb'_eq_extractLsb' (by decide : 24 = 16 + 8),
    BitVec.extractLsb'_append_extractLsb'_eq_extractLsb' (by decide : 16 = 8 + 8)]
  exact BitVec.extractLsb'_append_extractLsb'

theorem State.Holds.memBytes4 {s : State} {a : Nat} {v : Word} (h : s.Holds a (bytes4 v)) : s.memBytes4 a = v :=
  h.memRead4

theorem State.Holds.memBytes6 {s : State} {a : Nat} {v : Mac} (h : s.Holds a (bytes6 v)) : s.memBytes6 a = v := by
  simp only [bytes6, State.holds_cons] at h
  obtain ⟨h0, h1, h2, h3, h4, h5, -⟩ := h
  rw [State.memBytes6, h0, h1, h2, h3, h4, h5]
  rw [BitVec.extractLsb'_append_extractLsb'_eq_extractLsb' (by decide : 40 = 32 + 8),
    BitVec.extractLsb'_append_extractLsb'_eq_extractLsb' (by decide : 32 = 24 + 8),
    BitVec.extractLsb'_append_extractLsb'_eq_extractLsb' (by decide : 24 = 16 + 8),
    BitVec.extractLsb'_append_extractLsb'_eq_extractLsb' (by decide : 16 = 8 + 8)]
  exact BitVec.extractLsb'_append_extractLsb'

theorem versionOf_append (ver ihl : BitVec 4) : versionOf (ver ++ ihl) = ver := BitVec.extractLsb'_append_eq_left
theorem ihlOf_append (ver ihl : BitVec 4) : ihlOf (ver ++ ihl) = ihl := BitVec.extractLsb'_append_eq_right

/-- The data offset lies above the twelve flag bits (30_encoding.md R110). -/
theorem dataOffsetOf_flags (doff : BitVec 4) (flags : BitVec 12) : dataOffsetOf (doff ++ flags) = doff :=
  BitVec.extractLsb'_append_eq_left

/-- Of the twelve flag bits the low six are registers (30_encoding.md R112). -/
theorem tcpFlagsOf_flags (doff : BitVec 4) (flags : BitVec 12) : tcpFlagsOf (doff ++ flags) = flags.setWidth 6 := by
  rw [BitVec.setWidth_eq_extractLsb' (by decide)]
  exact BitVec.extractLsb'_append_eq_of_add_le (by decide)

/-! ## Parses of a header that fits -/

theorem State.le_avail {s : State} {n : Nat} (h : s.cursor.toNat + n ≤ s.frameLen.toNat) : n ≤ s.avail := by
  rw [State.avail]
  omega

/-- The end of an ICMP_PARSE whose header fits (42_transport.md R181). -/
def icmpAccept (s : State) : State :=
  State.finish .icmp (s.cursor.toNat + 4) (s.avail - 4) { s with
    results := { s.results with
      icmpType := s.memRead1 s.cursor.toNat
      icmpCode := s.memRead1 (s.cursor.toNat + 1)
      icmpCsum := s.memRead2 (s.cursor.toNat + 2) } }

/-- The end of a UDP_PARSE whose header fits (42_transport.md R190). -/
def udpAccept (s : State) : State :=
  State.finish .udp (s.cursor.toNat + 8) (s.avail - 8) { s with
    results := { s.results with
      udpSport := s.memRead2 s.cursor.toNat
      udpDport := s.memRead2 (s.cursor.toNat + 2)
      udpLen   := s.memRead2 (s.cursor.toNat + 4) } }

section
variable {s : State}

theorem execEthParse_of_fits (h : 14 ≤ s.avail) : execEthParse s = .next (ethAccept s) := by
  simp only [execEthParse, (s.lacks_false_iff _).2 h]
  rfl

theorem execIpv4Parse_of_fits (h5 : 5 ≤ (ihlOf s.ipv4FirstByte).toNat) (h : 4 * (ihlOf s.ipv4FirstByte).toNat ≤ s.avail) :
    execIpv4Parse s = .next (ipv4Accept s) := by
  have hmin : s.lacks Config.ipv4MinLen = false := (s.lacks_false_iff 20).2 (by omega)
  have hlen : s.lacks (lenBytes (ihlOf s.ipv4FirstByte)).toNat = false :=
    (s.lacks_false_iff _).2 (by rwa [lenBytes_toNat])
  simp only [execIpv4Parse, hmin, (nibbleTooSmall_false_iff _).2 h5, hlen, Bool.false_eq_true, if_false]

theorem execIcmpParse_of_fits (h : 4 ≤ s.avail) : execIcmpParse s = .next (icmpAccept s) := by
  simp only [execIcmpParse, (s.lacks_false_iff _).2 h]
  rfl

theorem execTcpParse_of_fits (h5 : 5 ≤ (dataOffsetOf s.tcpWord).toNat) (h : 4 * (dataOffsetOf s.tcpWord).toNat ≤ s.avail) :
    execTcpParse s = .next (tcpAccept s) := by
  have hmin : s.lacks Config.tcpPrefixLen = false := (s.lacks_false_iff 14).2 (by omega)
  have hlen : s.lacks (lenBytes (dataOffsetOf s.tcpWord)).toNat = false :=
    (s.lacks_false_iff _).2 (by rwa [lenBytes_toNat])
  simp only [execTcpParse, hmin, (nibbleTooSmall_false_iff _).2 h5, hlen, Bool.false_eq_true, if_false]

theorem execUdpParse_of_fits (h : 8 ≤ s.avail) : execUdpParse s = .next (udpAccept s) := by
  simp only [execUdpParse, (s.lacks_false_iff _).2 h]
  rfl

end

/-! ## Reading the header pseudo-instructions back (30_encoding.md R123) -/

section
variable {s : State} {c : Nat}

theorem State.Holds.ethHeader {dst src : Mac} {etherType : Half} (h : s.Holds c (ethHeader dst src etherType)) :
    s.memBytes6 c = dst ∧ s.memBytes6 (c + 6) = src ∧ s.memRead2 (c + 12) = etherType := by
  simp only [Machine.ethHeader, State.holds_append, length_bytes6, List.length_append] at h
  obtain ⟨⟨hdst, hsrc⟩, htype⟩ := h
  exact ⟨hdst.memBytes6, hsrc.memBytes6, htype.memRead2⟩

/-- The IPv4 header as a list of bytes of eight bits: as written, the first byte has type `BitVec (4 + 4)`. -/
theorem ipv4Header_eq (ver ihl : BitVec 4) (ttl proto : Byte) (src dst : Word) (opt : List Byte) :
    ipv4Header ver ihl ttl proto src dst opt =
      ([ver ++ ihl] : List Byte) ++ List.replicate 7 0#8 ++ [ttl, proto, 0#8, 0#8] ++ bytes4 src ++ bytes4 dst
        ++ padTo (4 * ihl.toNat - 20) opt := rfl

theorem State.Holds.ipv4Header {ver ihl : BitVec 4} {ttl proto : Byte} {src dst : Word} {opt : List Byte}
    (h : s.Holds c (ipv4Header ver ihl ttl proto src dst opt)) :
    s.memRead1 c = ver ++ ihl ∧ s.memRead1 (c + 8) = ttl ∧ s.memRead1 (c + 9) = proto ∧ s.memBytes4 (c + 12) = src ∧
      s.memBytes4 (c + 16) = dst := by
  simp only [ipv4Header_eq, State.holds_append, State.holds_cons, length_bytes4, List.length_append, List.length_cons,
    List.length_nil, List.length_replicate] at h
  obtain ⟨⟨⟨⟨⟨⟨hfirst, -⟩, -⟩, httl, hproto, -⟩, hsrc⟩, hdst⟩, -⟩ := h
  exact ⟨hfirst, httl, hproto, hsrc.memBytes4, hdst.memBytes4⟩

theorem State.Holds.icmpHeader {type code : Byte} {csum : Half} (h : s.Holds c (icmpHeader type code csum)) :
    s.memRead1 c = type ∧ s.memRead1 (c + 1) = code ∧ s.memRead2 (c + 2) = csum := by
  simp only [Machine.icmpHeader, State.holds_append, State.holds_cons] at h
  obtain ⟨⟨htype, hcode, -⟩, hcsum⟩ := h
  exact ⟨htype, hcode, hcsum.memRead2⟩

theorem State.Holds.tcpHeader {sport dport : Half} {seq ack : Word} {doff : BitVec 4} {flags : BitVec 12} {more : List Byte}
    (h : s.Holds c (tcpHeader sport dport seq ack doff flags more)) :
    s.memRead2 c = sport ∧ s.memRead2 (c + 2) = dport ∧ s.memRead4 (c + 4) = seq ∧ s.memRead4 (c + 8) = ack ∧
      s.memRead2 (c + 12) = doff ++ flags := by
  simp only [Machine.tcpHeader, State.holds_append, length_bytes2, length_bytes4, List.length_append] at h
  obtain ⟨⟨⟨⟨⟨hsport, hdport⟩, hseq⟩, hack⟩, hword⟩, -⟩ := h
  exact ⟨hsport.memRead2, hdport.memRead2, hseq.memRead4, hack.memRead4, hword.memRead2⟩

theorem State.Holds.udpHeader {sport dport len csum : Half} (h : s.Holds c (udpHeader sport dport len csum)) :
    s.memRead2 c = sport ∧ s.memRead2 (c + 2) = dport ∧ s.memRead2 (c + 4) = len := by
  simp only [Machine.udpHeader, State.holds_append, length_bytes2, List.length_append] at h
  obtain ⟨⟨⟨hsport, hdport⟩, hlen⟩, -⟩ := h
  exact ⟨hsport.memRead2, hdport.memRead2, hlen.memRead2⟩

end

/-- Settles O54: FB holds each operand where the parse reads it, and the header fits. -/
theorem headerNotationReadsBack : Obligations.HeaderNotationReadsBack := by
  rintro s _ rfl
  refine ⟨fun dst src etherType hb hn => ?_, fun ver ihl ttl proto src dst opt h5 _ hb hn => ?_, fun type code csum hb hn => ?_,
    fun sport dport seq ack doff flags more h5 _ hb hn => ?_, fun sport dport len csum hb hn => ?_⟩
  all_goals
    replace hb := State.holds_of_fbRun hb
    replace hn := State.le_avail hn
  · exact ⟨_, execEthParse_of_fits hn, hb.ethHeader⟩
  · obtain ⟨hfirst, httl, hproto, hsrc, hdst⟩ := hb.ipv4Header
    have hver : versionOf s.ipv4FirstByte = ver := by rw [State.ipv4FirstByte, hfirst, versionOf_append]
    have hihl : ihlOf s.ipv4FirstByte = ihl := by rw [State.ipv4FirstByte, hfirst, ihlOf_append]
    subst hihl
    exact ⟨_, execIpv4Parse_of_fits h5 hn, rfl, hver, lenBytes_toNat _, httl, hproto, hsrc, hdst⟩
  · exact ⟨_, execIcmpParse_of_fits hn, hb.icmpHeader⟩
  · obtain ⟨hsport, hdport, hseq, hack, hword⟩ := hb.tcpHeader
    have hdoff : dataOffsetOf s.tcpWord = doff := by rw [State.tcpWord, hword, dataOffsetOf_flags]
    have hflags : tcpFlagsOf s.tcpWord = flags.setWidth 6 := by rw [State.tcpWord, hword, tcpFlagsOf_flags]
    subst hdoff
    exact ⟨_, execTcpParse_of_fits h5 hn, rfl, hsport, hdport, hseq, hack, lenBytes_toNat _, hflags⟩
  · exact ⟨_, execUdpParse_of_fits hn, hb.udpHeader⟩

end Sys2Proof.Machine
end

section
/-! PROOFS. The family 40_ethernet.md: what ETH_PARSE and NET_UNRECOGNIZED answer (O12, O13, O14). -/

namespace Sys2Proof.Machine

/-! ## ETH_PARSE -/

section
variable {s : State}

theorem State.avail_eq {n : Nat} (h : s.cursor.toNat + n = s.frameLen.toNat) : s.avail = n := by
  rw [State.avail, ← h, Nat.add_sub_cancel_left]

theorem execEthParse_of_short (h : s.avail < 14) : execEthParse s = .next (s.abort .truncatedInput .eth) :=
  if_pos ((s.lacks_iff 14).2 h)

/-- The abort ends the dissection at DONE, an accepted header goes on to NET: the answer tells which it was. -/
theorem execEthParse_eq_abort_iff : execEthParse s = .next (s.abort .truncatedInput .eth) ↔ s.avail < 14 := by
  refine ⟨fun h => ?_, execEthParse_of_short⟩
  obtain ⟨hn, -⟩ | ⟨-, ht⟩ := execEthParse_cases h
  · exact hn
  · cases congrArg State.stage ht

theorem ethAccept_cursor_toNat (hc : s.cursor.toNat ≤ s.frameLen.toNat) (hn : 14 ≤ s.avail) :
    (ethAccept s).cursor.toNat = s.cursor.toNat + 14 :=
  State.cursor_add_toNat hn hc

theorem ethAccept_avail (hc : s.cursor.toNat ≤ s.frameLen.toNat) (hn : 14 ≤ s.avail) :
    (ethAccept s).avail = s.avail - 14 := by
  rw [State.avail, ethAccept_cursor_toNat hc hn, ← Nat.sub_sub]
  rfl

end

/-- Settles O12: the accepted header is `ethAccept`, whose CURSOR stays within the frame. -/
theorem ethParseDecodesHeader : Obligations.EthParseDecodesHeader := by
  rintro s _ avail rfl hlen
  obtain rfl := State.avail_eq hlen
  have hc : s.cursor.toNat ≤ s.frameLen.toNat := hlen ▸ Nat.le_add_right ..
  refine ⟨fun code => ?_, fun hn => ⟨ethAccept s, execEthParse_of_fits hn, rfl, ethAccept_cursor_toNat hc hn,
    ethAccept_avail hc hn, fun h0 => ⟨?_, ?_⟩⟩, execEthParse_of_short⟩
  · rw [decodeSelector_append, if_pos rfl]
  · rw [ethAccept, h0]
    rfl
  · rw [ethAccept_avail hc hn, State.avail, h0, Nat.sub_zero]

/-- Settles O13: at CURSOR 0 the bytes left are the whole frame. -/
theorem ethParseFailsBelowFourteen : Obligations.EthParseFailsBelowFourteen := by
  intro s h0
  have ha : s.avail = s.frameLen.toNat := by
    rw [State.avail, h0]
    rfl
  rw [← ha]
  exact execEthParse_eq_abort_iff

/-! ## NET_UNRECOGNIZED -/

/-- The flags of STATUS at the end of a dissection, from its OUTCOME (10_state.md R39, 43_dissector.md R216). -/
theorem State.finish_statusFlags (s : State) (outcome : DissectionOutcome) (off len : Nat) :
    let w := (s.finish outcome off len).statusWord
    (w.getLsbD 0 = false ∧ w.getLsbD 1 = true ∧ w.getLsbD 2 = (outcome == .failed)) ∧
      w.getLsbD 16 = outcome.ethValid ∧ w.getLsbD 17 = outcome.ipv4Valid ∧ w.getLsbD 18 = outcome.icmpValid ∧
      w.getLsbD 19 = outcome.tcpValid ∧ w.getLsbD 20 = outcome.udpValid ∧ w.getLsbD 21 = outcome.payloadValid := by
  simp only [State.statusWord_getLsbD]
  exact ⟨⟨rfl, rfl, rfl⟩, rfl, rfl, rfl, rfl, rfl, rfl⟩

/-- Settles O14: the end with OUTCOME ETH_ONLY at CURSOR. -/
theorem netUnrecognizedFinishes : Obligations.NetUnrecognizedFinishes := by
  intro s code _
  obtain ⟨⟨hbusy, hdone, herror⟩, heth, hipv4, hicmp, htcp, hudp, hpayload⟩ :=
    s.finish_statusFlags .ethOnly s.cursor.toNat s.avail
  refine ⟨fun hcode => ?_, s.finish .ethOnly s.cursor.toNat s.avail, rfl, ?_, ?_, ?_⟩
  · rw [decodeSelector_append, if_neg (by decide), if_pos rfl, if_neg hcode]
  · rw [State.finish, BitVec.ofNat_toNat, BitVec.setWidth_eq]
    rfl
  · simp only [List.forall_mem_cons]
    exact ⟨hdone, heth, hpayload, List.forall_mem_nil _⟩
  · simp only [List.forall_mem_cons]
    exact ⟨hbusy, herror, hipv4, hicmp, htcp, hudp, List.forall_mem_nil _⟩

end Sys2Proof.Machine
end

section
/-! PROOFS. The family 41_ipv4.md: what IPV4_PARSE answers where the declared header fits, its checks, and the header's length
(O15, O16, O17). -/

namespace Sys2Proof.Machine

section
variable {s : State}

/-! ## The accepted header -/

theorem State.versionOf_eq_ofNat (s : State) : versionOf s.ipv4FirstByte = BitVec.ofNat 4 s.version := by
  rw [← s.versionOf_toNat, BitVec.ofNat_toNat, BitVec.setWidth_eq]

/-- The header length in bytes as a number (30_encoding.md R109). -/
theorem State.ipv4LenBytes_toNat (s : State) : (lenBytes (ihlOf s.ipv4FirstByte)).toNat = 4 * s.ihl := by
  rw [lenBytes_toNat, s.ihlOf_toNat]

theorem State.ipv4LenBytes_eq_ofNat (s : State) : lenBytes (ihlOf s.ipv4FirstByte) = BitVec.ofNat 6 (4 * s.ihl) := by
  rw [← s.ipv4LenBytes_toNat, BitVec.ofNat_toNat, BitVec.setWidth_eq]

theorem ipv4Accept_cursor_toNat (hc : s.cursor.toNat ≤ s.frameLen.toNat) (hn : 4 * s.ihl ≤ s.avail) :
    (ipv4Accept s).cursor.toNat = s.cursor.toNat + 4 * s.ihl := by
  rw [← s.ipv4LenBytes_toNat] at hn ⊢
  exact State.cursor_add_toNat hn hc

theorem ipv4Accept_avail (hc : s.cursor.toNat ≤ s.frameLen.toNat) (hn : 4 * s.ihl ≤ s.avail) :
    (ipv4Accept s).avail = s.avail - 4 * s.ihl := by
  rw [State.avail, ipv4Accept_cursor_toNat hc hn, ← Nat.sub_sub]
  rfl

/-! ## The checks (41_ipv4.md R161) -/

theorem execIpv4Parse_of_short (h : s.avail < 20) : execIpv4Parse s = .next (s.abort .truncatedInput .ipv4) :=
  if_pos ((s.lacks_iff 20).2 h)

theorem execIpv4Parse_of_small_ihl (h20 : 20 ≤ s.avail) (h5 : s.ihl < 5) :
    execIpv4Parse s = .next (s.abort .badHeaderLength .ipv4) := by
  have hmin : s.lacks Config.ipv4MinLen = false := (s.lacks_false_iff 20).2 h20
  have hsmall : nibbleTooSmall (ihlOf s.ipv4FirstByte) = true := (nibbleTooSmall_iff _).2 (by rwa [s.ihlOf_toNat])
  simp only [execIpv4Parse, hmin, hsmall, Bool.false_eq_true, if_false, if_true]

theorem execIpv4Parse_of_long_ihl (h20 : 20 ≤ s.avail) (h5 : 5 ≤ s.ihl) (h : s.avail < 4 * s.ihl) :
    execIpv4Parse s = .next (s.abort .truncatedInput .ipv4) := by
  have hmin : s.lacks Config.ipv4MinLen = false := (s.lacks_false_iff 20).2 h20
  have hnib : nibbleTooSmall (ihlOf s.ipv4FirstByte) = false := (nibbleTooSmall_false_iff _).2 (by rwa [s.ihlOf_toNat])
  have hlen : s.lacks (lenBytes (ihlOf s.ipv4FirstByte)).toNat = true := (s.lacks_iff _).2 (by rwa [s.ipv4LenBytes_toNat])
  simp only [execIpv4Parse, hmin, hnib, hlen, Bool.false_eq_true, if_false, if_true]

/-- An abort ends at DONE, so an IPV4_PARSE that goes on found a header of at least five words that fits. -/
theorem execIpv4Parse_accept {t : State} (h : execIpv4Parse s = .next t) (ht : t.stage ≠ .done) :
    5 ≤ s.ihl ∧ 4 * s.ihl ≤ s.avail ∧ t = ipv4Accept s := by
  rw [← s.ihlOf_toNat]
  obtain ⟨-, rfl⟩ | ⟨-, -, rfl⟩ | ⟨-, -, -, rfl⟩ | haccept := execIpv4Parse_cases h
  · exact absurd rfl ht
  · exact absurd rfl ht
  · exact absurd rfl ht
  · exact haccept

end

/-- Settles O15: the accepted header is `ipv4Accept`, its nibbles and its length read as numbers. -/
theorem ipv4ParseDecodesHeader : Obligations.Ipv4ParseDecodesHeader := by
  rintro s _ rfl h5 hn
  rw [← s.ihlOf_toNat] at h5
  have hfits : 4 * (ihlOf s.ipv4FirstByte).toNat ≤ s.avail := by
    rw [s.ihlOf_toNat]
    exact State.le_avail hn
  refine (execIpv4Parse_of_fits h5 hfits).trans ?_
  rw [ipv4Accept, s.ipv4LenBytes_toNat, s.ipv4LenBytes_eq_ofNat, s.versionOf_eq_ofNat, s.versionMismatch_eq]
  rfl

/-- Settles O16: one lemma per check. -/
theorem ipv4ChecksInOrder : Obligations.Ipv4ChecksInOrder := by
  intro s avail h
  obtain rfl := State.avail_eq h
  exact ⟨execIpv4Parse_of_short, execIpv4Parse_of_small_ihl, execIpv4Parse_of_long_ihl⟩

/-- Settles O17: IHL is a nibble of at least 5, and the accepted header lies within the frame. -/
theorem ipv4HeaderLengthIsFourNibbles : Obligations.Ipv4HeaderLengthIsFourNibbles := by
  intro s t hc h ht
  obtain ⟨h5, hn, rfl⟩ := execIpv4Parse_accept h ht
  have hlen : (ipv4Accept s).results.ipHlen.toNat = 4 * s.ihl := s.ipv4LenBytes_toNat
  have hlt := s.ihl_lt
  rw [hlen]
  exact ⟨rfl, by omega, by omega, ipv4Accept_cursor_toNat hc hn, ipv4Accept_avail hc hn⟩

end Sys2Proof.Machine
end

section
/-! PROOFS. The family 42_transport.md: what the four operations of stage TRN answer, and the checks of TCP_PARSE
(O19, O20, O21, O23, O24). -/

namespace Sys2Proof.Machine

/-- The rows of stage TRN (30_encoding.md R117). -/
theorem decodeSelector_trn (code : Half) :
    decodeSelector (3#3 ++ code) = if code = 1#16 then some .icmpParse else if code = 6#16 then some .tcpParse
      else if code = 17#16 then some .udpParse else some (.trnUnrecognized code) := by
  rw [decodeSelector_append, if_neg (by decide), if_neg (by decide), if_pos rfl]

/-! ## ICMP_PARSE and UDP_PARSE -/

section
variable {s : State}

theorem execIcmpParse_of_short (h : s.avail < 4) : execIcmpParse s = .next (s.abort .truncatedInput .icmp) :=
  if_pos ((s.lacks_iff 4).2 h)

theorem execUdpParse_of_short (h : s.avail < 8) : execUdpParse s = .next (s.abort .truncatedInput .udp) :=
  if_pos ((s.lacks_iff 8).2 h)

end

/-- Settles O19: a header that fits ends as `icmpAccept`, whose STATUS flags are those of OUTCOME ICMP. -/
theorem icmpParseDecodesHeader : Obligations.IcmpParseDecodesHeader := by
  rintro s _ avail rfl hlen
  obtain rfl := State.avail_eq hlen
  refine ⟨decodeSelector_trn 1#16, fun hn => ⟨icmpAccept s, execIcmpParse_of_fits hn, rfl, ?_⟩, execIcmpParse_of_short⟩
  obtain ⟨⟨-, hdone, -⟩, heth, hipv4, hicmp, -, -, hpayload⟩ := State.finish_statusFlags _ .icmp _ _
  simp only [List.forall_mem_cons]
  exact ⟨hdone, heth, hipv4, hicmp, hpayload, List.forall_mem_nil _⟩

/-- Settles O23: a header that fits ends as `udpAccept`, which takes the residual from FRAME_LEN and not from UDP_LEN. -/
theorem udpParseDecodesHeader : Obligations.UdpParseDecodesHeader := by
  rintro s _ avail rfl hlen
  obtain rfl := State.avail_eq hlen
  refine ⟨decodeSelector_trn 17#16, fun hn => ⟨udpAccept s, execUdpParse_of_fits hn, rfl, ?_⟩, execUdpParse_of_short⟩
  obtain ⟨⟨-, hdone, -⟩, heth, hipv4, -, -, hudp, hpayload⟩ := State.finish_statusFlags _ .udp _ _
  simp only [List.forall_mem_cons]
  exact ⟨hdone, heth, hipv4, hudp, hpayload, List.forall_mem_nil _⟩

/-! ## TCP_PARSE -/

section
variable {s : State}

/-- The header length in bytes as a number (30_encoding.md R111). -/
theorem State.tcpLenBytes_toNat (s : State) : (lenBytes (dataOffsetOf s.tcpWord)).toNat = 4 * s.dataOffset := by
  rw [lenBytes_toNat, s.dataOffsetOf_toNat]

theorem State.tcpLenBytes_eq_ofNat (s : State) : lenBytes (dataOffsetOf s.tcpWord) = BitVec.ofNat 6 (4 * s.dataOffset) := by
  rw [← s.tcpLenBytes_toNat, BitVec.ofNat_toNat, BitVec.setWidth_eq]

/-- The flags are the low six bits of byte 13 of the header (30_encoding.md R112). -/
theorem State.tcpFlagsOf_tcpWord (s : State) : tcpFlagsOf s.tcpWord = (s.fbByte (s.cursor.toNat + 13)).setWidth 6 :=
  tcpFlagsOf_append ..

theorem execTcpParse_of_short (h : s.avail < 14) : execTcpParse s = .next (s.abort .truncatedInput .tcp) :=
  if_pos ((s.lacks_iff 14).2 h)

theorem execTcpParse_of_small_dataOffset (h14 : 14 ≤ s.avail) (h5 : s.dataOffset < 5) :
    execTcpParse s = .next (s.abort .badHeaderLength .tcp) := by
  have hmin : s.lacks Config.tcpPrefixLen = false := (s.lacks_false_iff 14).2 h14
  have hsmall : nibbleTooSmall (dataOffsetOf s.tcpWord) = true := (nibbleTooSmall_iff _).2 (by rwa [s.dataOffsetOf_toNat])
  simp only [execTcpParse, hmin, hsmall, Bool.false_eq_true, if_false, if_true]

theorem execTcpParse_of_long_dataOffset (h14 : 14 ≤ s.avail) (h5 : 5 ≤ s.dataOffset) (h : s.avail < 4 * s.dataOffset) :
    execTcpParse s = .next (s.abort .truncatedInput .tcp) := by
  have hmin : s.lacks Config.tcpPrefixLen = false := (s.lacks_false_iff 14).2 h14
  have hnib : nibbleTooSmall (dataOffsetOf s.tcpWord) = false :=
    (nibbleTooSmall_false_iff _).2 (by rwa [s.dataOffsetOf_toNat])
  have hlen : s.lacks (lenBytes (dataOffsetOf s.tcpWord)).toNat = true := (s.lacks_iff _).2 (by rwa [s.tcpLenBytes_toNat])
  simp only [execTcpParse, hmin, hnib, hlen, Bool.false_eq_true, if_false, if_true]

end

/-- Settles O20: the accepted header is `tcpAccept`, its length read as a number and its flags from byte 13. -/
theorem tcpParseDecodesHeader : Obligations.TcpParseDecodesHeader := by
  rintro s _ avail rfl hlen h5 hn
  obtain rfl := State.avail_eq hlen
  rw [← s.dataOffsetOf_toNat] at h5 hn
  refine (execTcpParse_of_fits h5 hn).trans ?_
  rw [tcpAccept, s.tcpLenBytes_toNat, s.tcpLenBytes_eq_ofNat, s.tcpFlagsOf_tcpWord]
  rfl

/-- Settles O21: one lemma per check. -/
theorem tcpChecksInOrder : Obligations.TcpChecksInOrder := by
  intro s avail h
  obtain rfl := State.avail_eq h
  exact ⟨execTcpParse_of_short, execTcpParse_of_small_dataOffset, execTcpParse_of_long_dataOffset⟩

/-! ## TRN_UNRECOGNIZED -/

/-- Settles O24: the end with OUTCOME IPV4_UNRECOGNIZED at CURSOR. -/
theorem trnUnrecognizedFinishes : Obligations.TrnUnrecognizedFinishes := by
  intro s code _
  obtain ⟨⟨hbusy, hdone, herror⟩, heth, hipv4, hicmp, htcp, hudp, hpayload⟩ :=
    s.finish_statusFlags .ipv4Unrecognized s.cursor.toNat s.avail
  refine ⟨fun hicmpCode htcpCode hudpCode => ?_, s.finish .ipv4Unrecognized s.cursor.toNat s.avail, rfl, ?_, ?_, ?_⟩
  · rw [decodeSelector_trn, if_neg hicmpCode, if_neg htcpCode, if_neg hudpCode]
  · rw [State.finish, BitVec.ofNat_toNat, BitVec.setWidth_eq]
    rfl
  · simp only [List.forall_mem_cons]
    exact ⟨hdone, heth, hipv4, hpayload, List.forall_mem_nil _⟩
  · simp only [List.forall_mem_cons]
    exact ⟨hbusy, herror, hicmp, htcp, hudp, List.forall_mem_nil _⟩

end Sys2Proof.Machine
end

section
/-! PROOFS. The family 43_dissector.md: the host operations, when the engine has a step and what it answers at each stage, and a
dissection from START to DONE (O8, O11, O25, O29, O30, O31, O32, O33, O34, O41, O43, O51, O52). -/

namespace Sys2Proof.Machine

/-! ## Host operations -/

theorem State.busy_of_stage {s : State} {g : Stage} (hs : s.stage = g) (hg : g.busy = true) : s.busy = true := by
  rw [s.busy_eq, hs, hg]

theorem State.busy_of_ne {s : State} (hidle : s.stage ≠ .idle) (hdone : s.stage ≠ .done) : s.busy = true := by
  by_contra hb
  obtain h | h := s.stage.not_busy_iff.1 (Bool.eq_false_of_not_eq_true hb)
  · exact hidle h
  · exact hdone h

/-! What each write does when it is dropped and when it is accepted (43_dissector.md R217 to R219). -/

section
variable {s : State}

theorem exec_hostStart_of_busy (hb : s.busy = true) (d : Word) : exec (.hostStart d) s = .next s := if_pos hb

theorem exec_hostWriteFb_of_busy (hb : s.busy = true) (a : Half) (v : Byte) : exec (.hostWriteFb a v) s = .next s := if_pos hb

theorem exec_hostWriteFrameLen_of_busy (hb : s.busy = true) (d : Word) : exec (.hostWriteFrameLen d) s = .next s := if_pos hb

theorem exec_hostStart_of_not_busy (hb : s.busy = false) (d : Word) : exec (.hostStart d) s = .next s.startDissection :=
  if_neg (Bool.eq_false_iff.1 hb)

theorem exec_hostWriteFb_of_not_busy (hb : s.busy = false) (a : Half) (v : Byte) :
    exec (.hostWriteFb a v) s = .next (s.writeFb a.toNat v) :=
  if_neg (Bool.eq_false_iff.1 hb)

theorem exec_hostWriteFrameLen_of_not_busy (hb : s.busy = false) (d : Word) :
    exec (.hostWriteFrameLen d) s = .next { s with frameLen := d.setWidth 16 } :=
  if_neg (Bool.eq_false_iff.1 hb)

end

/-- A write to CTRL with bit 0 clear is an ignored access (43_dissector.md R217). -/
theorem decodeAccess_clearCtrl {d : Word} (h : d.getLsbD 0 = false) :
    decodeAccess ⟨.write d, 32#8, 0x0#32⟩ = .hostWriteIgnored ⟨.write d, 32#8, 0x0#32⟩ := by
  simp only [decodeAccess, h, Bool.false_eq_true, and_false, if_false]
  rfl

theorem startDissection_statusWord (s : State) : s.startDissection.statusWord = 0x00000001#32 := by
  show State.reset.startDissection.statusWord = 0x00000001#32
  decide

/-- Settles O29: bit 0 is the parity of the data, and IDLE and DONE are the stages that are not busy. -/
theorem startBeginsDissection : Obligations.StartBeginsDissection := by
  intro s d
  have hbit : d.getLsbD 0 = decide (d.toNat % 2 = 1) := Nat.testBit_zero d.toNat
  refine ⟨fun h => decodeAccess_start (by rw [hbit, decide_eq_true h]), fun h => ?_, fun h => ?_,
    fun hidle hdone => exec_hostStart_of_busy (State.busy_of_ne hidle hdone) d⟩
  · rw [decodeAccess_clearCtrl (by rw [hbit, h]; rfl)]
    rfl
  · exact ⟨_, exec_hostStart_of_not_busy (s.stage.not_busy_iff.2 h) d, rfl, startDissection_statusWord s⟩

/-- Settles O30: a read after the write, and the write's frame. -/
theorem fbWriteStoresOneByte : Obligations.FbWriteStoresOneByte := by
  intro s a v ha
  have hlt : a.toNat < Config.fbSize := Nat.lt_succ_of_le ha
  refine ⟨fun d hd => hd ▸ decodeAccess_writeFb d hlt, fun h => ?_,
    fun hidle hdone => exec_hostWriteFb_of_busy (State.busy_of_ne hidle hdone) a v⟩
  refine ⟨_, exec_hostWriteFb_of_not_busy (s.stage.not_busy_iff.2 h) a v, s.fbByte_writeFb_same v hlt,
    fun b hb => s.fbByte_writeFb_other v hb, ?_⟩
  rw [State.writeFb_of_lt v hlt]

/-- Settles O31: FRAME_LEN takes the low 16 bits. -/
theorem frameLenWriteTakesLowHalf : Obligations.FrameLenWriteTakesLowHalf := fun s d =>
  ⟨decodeAccess_writeFrameLen d,
    fun h => ⟨_, exec_hostWriteFrameLen_of_not_busy (s.stage.not_busy_iff.2 h) d, BitVec.toNat_setWidth .., rfl⟩,
    fun hidle hdone => exec_hostWriteFrameLen_of_busy (State.busy_of_ne hidle hdone) d⟩

/-- Settles O33: a byte is zero-extended without loss. -/
theorem fbReadReturnsByte : Obligations.FbReadReturnsByte := by
  intro s a ha
  have hlt : a.toNat < Config.fbSize := Nat.lt_succ_of_le ha
  refine ⟨decodeAccess_readFb hlt, _, rfl, rfl, ?_⟩
  simp only [if_pos hlt]
  exact BitVec.toNat_setWidth_of_le (by decide)

/-- Settles O34: the classification of writes has one case that is not a named operation. -/
theorem ignoredAccessChangesNothing : Obligations.IgnoredAccessChangesNothing := by
  intro s a
  refine ⟨(decodeAccess_eq_ignored_iff a).symm, fun d hdir hstart hfb hlen => ?_, ?_⟩
  · simp only [decodeAccess, hdir] at hstart hfb hlen ⊢
    split_ifs at hstart hfb hlen ⊢
    · exact absurd ⟨_, rfl⟩ hstart
    · exact absurd ⟨_, rfl⟩ hlen
    · exact absurd ⟨_, _, rfl⟩ hfb
    · rfl
  · obtain ⟨_ | d, width, offset⟩ := a
    · rfl
    · rfl

/-! ## The register map -/

/-- A read at an offset when only the registers of a list have one: the first register that stands there, else 0. -/
def State.readAmong (s : State) (o : Half) : List HostReg → Word
  | [] => 0
  | r :: rs => if o = r.offset then s.regValue r else s.readAmong o rs

theorem State.readAmong_eq_find (s : State) (o : Half) (rs : List HostReg) :
    (rs.find? (fun r => r.offset == o)).elim 0 s.regValue = s.readAmong o rs := by
  induction rs with
  | nil => rfl
  | cons r rs ih =>
    rw [State.readAmong]
    split_ifs with h
    · rw [List.find?_cons_of_pos (by rw [h, beq_self_eq_true]), Option.elim_some]
    · rw [List.find?_cons_of_neg (by simpa using Ne.symm h), ih]

/-- The map of 10_state.md R49, register by register. -/
theorem State.readReg_eq_readAmong (s : State) (o : Half) : s.readReg o = s.readAmong o HostReg.all := by
  rw [← State.readAmong_eq_find, State.readReg, regAt]
  cases HostReg.all.find? (fun r => r.offset == o) with
  | none => rfl
  | some r => rfl

/-- The high register of a hardware address (10_state.md R46). -/
theorem setWidth_highHalf (m : Mac) : (m.extractLsb' 32 16).setWidth 32 = BitVec.ofNat 32 (m.toNat / 2 ^ 32) := by
  apply BitVec.eq_of_toNat_eq
  have := m.isLt
  simp only [BitVec.toNat_setWidth, BitVec.extractLsb'_toNat, Nat.shiftRight_eq_div_pow, BitVec.toNat_ofNat]
  omega

/-- The low register of a hardware address (10_state.md R46). -/
theorem lowWord_eq_ofNat (m : Mac) : m.extractLsb' 0 32 = BitVec.ofNat 32 (m.toNat % 2 ^ 32) := by
  apply BitVec.eq_of_toNat_eq
  simp only [BitVec.extractLsb'_toNat, Nat.shiftRight_zero, BitVec.toNat_ofNat, Nat.mod_mod]

/-- Settles O32: the map as a chain of offsets; CTRL reads 0, as a reserved offset does. -/
theorem registerReadReturnsMap : Obligations.RegisterReadReturnsMap := by
  intro s o
  refine ⟨decodeAccess_readReg, ?_⟩
  have hstage : s.stage.code.setWidth 32 = match s.stage with | .idle => 0 | .eth => 1 | .net => 2 | .trn => 3 | .done => 4 := by
    cases s.stage <;> rfl
  rw [exec, execHostReadReg, State.readReg_eq_readAmong]
  by_cases hctrl : o = HostReg.ctrl.offset
  · subst hctrl
    rfl
  · rw [HostReg.all, State.readAmong, if_neg hctrl]
    simp only [State.readAmong, State.regValue, hstage, setWidth_highHalf, lowWord_eq_ofNat]
    rfl

/-! ## When the engine has a step -/

theorem State.engineOp_eq_none_iff (s : State) : s.engineOp = none ↔ s.busy = false := by
  rw [s.busy_eq]
  cases hs : s.stage with
  | idle => exact iff_of_true (State.engineOp_idle hs) rfl
  | eth => exact iff_of_false (by rw [State.engineOp_eth hs]; nofun) nofun
  | net =>
    rw [State.engineOp_net hs]
    exact iff_of_false (by split_ifs <;> nofun) nofun
  | trn =>
    rw [State.engineOp_trn hs]
    exact iff_of_false (by split_ifs <;> nofun) nofun
  | done => exact iff_of_true (State.engineOp_done hs) rfl

theorem engineStep_of_not_busy {s : State} (hb : s.busy = false) : engineStep s = .next s := by
  simp only [engineStep, s.engineOp_eq_none_iff.2 hb]

theorem engineStep_of_engineOp {s : State} {i : Instr} (h : s.engineOp = some i) : engineStep s = exec i s := by
  simp only [engineStep, h]

/-- Settles O11: the engine has an operation exactly at the busy stages. -/
theorem quiescentEngineStands : Obligations.QuiescentEngineStands := by
  intro s
  refine ⟨⟨fun h => ?_, fun h => s.stage.not_busy_iff.1 h.2⟩, s.stage.busy_iff, ?_⟩
  · have hb := s.stage.not_busy_iff.2 h
    exact ⟨engineStep_of_not_busy hb, hb⟩
  · rw [← Option.ne_none_iff_exists', Ne, s.engineOp_eq_none_iff, Bool.not_eq_false]

/-- Settles O8: with no event scheduled the step is an engine step too. -/
theorem stepRunsSelectedOperation : Obligations.StepRunsSelectedOperation := by
  intro s sel i hs hi
  have hop : s.engineOp = some i := by simp only [State.engineOp, hs, hi]
  refine ⟨fun h => ?_, fun rest h => step_of_selector h hs hi⟩
  simp only [step, h, engineStep_of_engineOp hop]

/-! ## Ends with success -/

/-- An engine operation that decides an undecided dissection, without failing, ends it `n` bytes after CURSOR (43_dissector.md
R216). -/
theorem exec_engineOp_finish {i : Instr} {s t : State} (hi : isEngineOp i = true) (ho : s.outcome = .none)
    (h : exec i s = .next t) (hnone : t.outcome ≠ .none) (hfailed : t.outcome ≠ .failed) :
    ∃ (outcome : DissectionOutcome) (n : Nat) (r : Results), outcome.payloadValid = true ∧ n ≤ s.avail ∧
      t = State.finish outcome (s.cursor.toNat + n) (s.avail - n) { s with results := r } := by
  cases i with
  | ethParse =>
    obtain ⟨-, rfl⟩ | ⟨-, rfl⟩ := execEthParse_cases h
    · exact absurd rfl hfailed
    · exact absurd ho hnone
  | ipv4Parse =>
    obtain ⟨-, rfl⟩ | ⟨-, -, rfl⟩ | ⟨-, -, -, rfl⟩ | ⟨-, -, rfl⟩ := execIpv4Parse_cases h
    · exact absurd rfl hfailed
    · exact absurd rfl hfailed
    · exact absurd rfl hfailed
    · exact absurd ho hnone
  | netUnrecognized => cases h; exact ⟨.ethOnly, 0, s.results, rfl, Nat.zero_le _, rfl⟩
  | icmpParse =>
    obtain ⟨-, rfl⟩ | ⟨hn, rfl⟩ := execIcmpParse_cases h
    · exact absurd rfl hfailed
    · exact ⟨.icmp, 4, _, rfl, hn, rfl⟩
  | tcpParse =>
    obtain ⟨-, rfl⟩ | ⟨-, -, rfl⟩ | ⟨-, -, -, rfl⟩ | ⟨-, hn, rfl⟩ := execTcpParse_cases h
    · exact absurd rfl hfailed
    · exact absurd rfl hfailed
    · exact absurd rfl hfailed
    · rw [← lenBytes_toNat] at hn
      exact ⟨.tcp, _, _, rfl, hn, rfl⟩
  | udpParse =>
    obtain ⟨-, rfl⟩ | ⟨hn, rfl⟩ := execUdpParse_cases h
    · exact absurd rfl hfailed
    · exact ⟨.udp, 8, _, rfl, hn, rfl⟩
  | trnUnrecognized => cases h; exact ⟨.ipv4Unrecognized, 0, s.results, rfl, Nat.zero_le _, rfl⟩
  | hostStart | hostWriteFb | hostWriteFrameLen | hostReadReg | hostReadFb | hostWriteIgnored => cases hi

/-! ## What a step answers at each stage -/

/-- The answers of the operations a stage dispatches to (43_dissector.md R212), with the register that selects each. -/
inductive StageAnswer (s : State) : Stage → State → Prop where
  | ethFails {kind : ErrKind} : StageAnswer s .eth (s.abort kind .eth)
  | ethAccepts : StageAnswer s .eth (ethAccept s)
  | ipv4Fails {kind : ErrKind} (ht : s.results.ethType = Config.etherTypeIpv4) : StageAnswer s .net (s.abort kind .ipv4)
  | ipv4Accepts (ht : s.results.ethType = Config.etherTypeIpv4) : StageAnswer s .net (ipv4Accept s)
  | netUnrecognized (ht : s.results.ethType ≠ Config.etherTypeIpv4) :
      StageAnswer s .net (s.finish .ethOnly s.cursor.toNat s.avail)
  | trnFails {kind : ErrKind} {layer : ErrLayer} (hl : layer ≠ .eth ∧ layer ≠ .ipv4) : StageAnswer s .trn (s.abort kind layer)
  | icmpEnds (hp : s.results.ipProto = 1) : StageAnswer s .trn (icmpAccept s)
  | tcpEnds (hp : s.results.ipProto = 6) (h5 : 5 ≤ (dataOffsetOf s.tcpWord).toNat) : StageAnswer s .trn (tcpAccept s)
  | udpEnds (hp : s.results.ipProto = 17) : StageAnswer s .trn (udpAccept s)
  | trnUnrecognized (hp : s.results.ipProto ∉ [1#8, 6#8, 17#8]) :
      StageAnswer s .trn (s.finish .ipv4Unrecognized s.cursor.toNat s.avail)

theorem engineStep_stageAnswer {s t : State} {g : Stage} (hg : s.stage = g) (hb : g.busy = true) (h : engineStep s = .next t) :
    StageAnswer s g t := by
  subst hg
  obtain ⟨hn, -⟩ | ⟨hs, h⟩ | ⟨hs, ht, h⟩ | ⟨hs, ht, h⟩ | ⟨hs, hp, h⟩ | ⟨hs, hp, h⟩ | ⟨hs, hp, h⟩ | ⟨hs, hp, h⟩ :=
    engineStep_cases h
  · cases hb.symm.trans hn
  all_goals rw [hs]
  · obtain ⟨-, rfl⟩ | ⟨-, rfl⟩ := execEthParse_cases h
    · exact .ethFails
    · exact .ethAccepts
  · obtain ⟨-, rfl⟩ | ⟨-, -, rfl⟩ | ⟨-, -, -, rfl⟩ | ⟨-, -, rfl⟩ := execIpv4Parse_cases h
    · exact .ipv4Fails ht
    · exact .ipv4Fails ht
    · exact .ipv4Fails ht
    · exact .ipv4Accepts ht
  · cases h
    exact .netUnrecognized ht
  · obtain ⟨-, rfl⟩ | ⟨-, rfl⟩ := execIcmpParse_cases h
    · exact .trnFails ⟨nofun, nofun⟩
    · exact .icmpEnds hp
  · obtain ⟨-, rfl⟩ | ⟨-, -, rfl⟩ | ⟨-, -, -, rfl⟩ | ⟨h5, -, rfl⟩ := execTcpParse_cases h
    · exact .trnFails ⟨nofun, nofun⟩
    · exact .trnFails ⟨nofun, nofun⟩
    · exact .trnFails ⟨nofun, nofun⟩
    · exact .tcpEnds hp h5
  · obtain ⟨-, rfl⟩ | ⟨-, rfl⟩ := execUdpParse_cases h
    · exact .trnFails ⟨nofun, nofun⟩
    · exact .udpEnds hp
  · cases h
    exact .trnUnrecognized hp

/-- An end before IPV4_PARSE is at NET, where VMISMATCH is still 0 (43_dissector.md R216). -/
theorem StageAnswer.vmismatch_of_ethOnly {s t : State} (ha : StageAnswer s s.stage t) (h : s.Inv) (hb : s.busy = true)
    (ho : t.outcome = .ethOnly) : t.vmismatch = false := by
  have hnone := (h.undecided_of_busy hb).outcome
  generalize hg : s.stage = g at ha
  cases ha with
  | netUnrecognized =>
    obtain ⟨-, -, -, hv⟩ := h.atNet hg
    exact hv
  | ethAccepts | ipv4Accepts => cases hnone.symm.trans ho
  | _ => cases ho

/-- Settles O25: the end is `finish`, whose residual ends at FRAME_LEN, and a busy block is undecided. -/
theorem finishReportsResidual : Obligations.FinishReportsResidual := by
  refine ⟨fun i s t hi ho hc h hnone hfailed => ?_, fun s t h hb hx hnone hfailed => ?_⟩
  · obtain ⟨outcome, n, r, hvalid, hn, rfl⟩ := exec_engineOp_finish hi ho h hnone hfailed
    obtain ⟨hsum, -⟩ := State.finish_resultFitsFrame (s := { s with results := r }) hc hn outcome hvalid
    have hoff : (BitVec.ofNat 16 (s.cursor.toNat + n)).toNat = s.cursor.toNat + n := State.cursor_add_toNat hn hc
    exact ⟨hvalid, (Nat.le_add_right _ n).trans_eq hoff.symm, hsum, rfl, rfl, rfl, rfl, rfl⟩
  · obtain ⟨-, ho, hk, hl⟩ := h.undecided_of_busy hb
    have hv := (engineStep_stageAnswer rfl hb hx).vmismatch_of_ethOnly h hb
    cases engineStep_answer hx with
    | abort => exact absurd rfl hfailed
    | idle | eth | ipv4 | finish => exact ⟨hk, hl, hv⟩

/-! ## The tagged tree -/

/-- The tree does not speak of the frame nor of the model's own fields. -/
theorem State.TaggedTree.update {s : State} (h : s.TaggedTree) (fb : Memory) (n : Half) (schedule : List Event)
    (readData : Word) : State.TaggedTree { s with fb := fb, frameLen := n, schedule := schedule, readData := readData } :=
  ⟨h.ethOnly, h.ipv4Unrecognized, h.icmp, h.tcp, h.udp⟩

/-- A failed dissection has no tree (60_exceptions.md R256). -/
theorem State.abort_taggedTree (s : State) (kind : ErrKind) (layer : ErrLayer) : (s.abort kind layer).TaggedTree :=
  ⟨nofun, nofun, nofun, nofun, nofun⟩

/-- The end of a dissection leaves the tree of its OUTCOME: the operation that names it wrote that header alone. -/
theorem StageAnswer.taggedTree {s t : State} {g : Stage} (ha : StageAnswer s g t) (hg : s.stage = g) (h : s.Inv) :
    t.TaggedTree := by
  cases ha with
  | ethFails | ipv4Fails | trnFails => exact s.abort_taggedTree _ _
  | ethAccepts | ipv4Accepts =>
    obtain ⟨-, ho, hk, hl⟩ := h.undecided (by simp [hg])
    exact State.Undecided.taggedTree ⟨nofun, ho, hk, hl⟩
  | netUnrecognized ht =>
    obtain ⟨-, hipv4, ⟨hicmp, htcp, hudp, -⟩, hv⟩ := h.atNet hg
    exact ⟨fun _ => ⟨hipv4, hicmp, htcp, hudp, hv, ht⟩, nofun, nofun, nofun, nofun⟩
  | icmpEnds hp =>
    obtain ⟨hpast, -, htcp, hudp, -⟩ := h.atTrn hg
    exact ⟨nofun, nofun, fun _ => ⟨hpast, htcp, hudp, hp⟩, nofun, nofun⟩
  | tcpEnds hp h5 =>
    obtain ⟨hpast, hicmp, -, hudp, -⟩ := h.atTrn hg
    have hlen : 20 ≤ (lenBytes (dataOffsetOf s.tcpWord)).toNat := by
      rw [lenBytes_toNat]
      omega
    exact ⟨nofun, nofun, nofun, fun _ => ⟨hpast, hicmp, hudp, hp, hlen⟩, nofun⟩
  | udpEnds hp =>
    obtain ⟨hpast, hicmp, htcp, -, -⟩ := h.atTrn hg
    exact ⟨nofun, nofun, nofun, nofun, fun _ => ⟨hpast, hicmp, htcp, hp⟩⟩
  | trnUnrecognized hp =>
    obtain ⟨hpast, hicmp, htcp, hudp, -⟩ := h.atTrn hg
    exact ⟨nofun, fun _ => ⟨hpast, hicmp, htcp, hudp, hp⟩, nofun, nofun, nofun⟩

theorem engineStep_taggedTree {s t : State} (h : s.Inv) (hT : s.TaggedTree) (hx : engineStep s = .next t) : t.TaggedTree := by
  cases hb : s.busy with
  | true => exact (engineStep_stageAnswer rfl hb hx).taggedTree rfl h
  | false =>
    cases (engineStep_of_not_busy hb).symm.trans hx
    exact hT

theorem exec_access_taggedTree {a : BusAccess} {s t : State} (hT : s.TaggedTree) (hx : exec (decodeAccess a) s = .next t) :
    t.TaggedTree := by
  obtain rfl | ⟨v, rfl⟩ | ⟨-, rfl⟩ | ⟨-, b, v, rfl⟩ | ⟨-, n, rfl⟩ := exec_access_cases hx
  · exact hT
  · exact hT.update s.fb s.frameLen s.schedule v
  · exact s.startDissection_fresh.taggedTree
  · by_cases hlt : b < Config.fbSize
    · rw [State.writeFb_of_lt v hlt]
      exact hT.update _ s.frameLen s.schedule s.readData
    · rwa [State.writeFb_of_ge v hlt]
  · exact hT.update s.fb n s.schedule s.readData

/-- Settles O41: an engine step leaves the tree of its end, and a host operation, a reset or a power-up keeps or clears it. -/
theorem stepKeepsTaggedTree : Obligations.StepKeepsTaggedTree := by
  intro s t h hT hx
  obtain ⟨-, hx⟩ | ⟨e, rest, -, hx⟩ := step_cases hx
  · exact engineStep_taggedTree h hT hx
  · have hT' := hT.update s.fb s.frameLen rest s.readData
    obtain ⟨-, hx⟩ | ⟨a, -, hx⟩ | ⟨-, rfl⟩ | ⟨-, rfl⟩ := applyEvent_cases hx
    · exact engineStep_taggedTree (h.update h.memory (fun _ => rfl) rest s.readData) hT' hx
    · exact exec_access_taggedTree hT' hx
    · exact (State.resetBlock_fresh _).taggedTree
    · exact (State.powerUpBlock_fresh _).taggedTree

/-! ## The changes of STAGE -/

theorem State.Inv.not_failed {s : State} (h : s.Inv) (hs : s.stage ≠ .done) : s.outcome ≠ .failed := by
  rw [h.outcome.2 hs]
  nofun

/-- A host operation that changes STAGE is an accepted START. -/
theorem exec_access_stage {a : BusAccess} {s t : State} (h : exec (decodeAccess a) s = .next t) (hne : t.stage ≠ s.stage) :
    (∃ d, decodeAccess a = .hostStart d) ∧ s.busy = false := by
  by_cases hd : ∃ d, decodeAccess a = .hostStart d
  · refine ⟨hd, Bool.eq_false_of_not_eq_true fun hb => ?_⟩
    obtain ⟨d, hd⟩ := hd
    rw [hd, exec_hostStart_of_busy hb] at h
    cases h
    exact hne rfl
  · obtain ⟨fb, n, v, hx⟩ := exec_hostOp (isEngineOp_decodeAccess a) (fun d h => hd ⟨d, h⟩) s
    cases hx.symm.trans h
    exact absurd rfl hne

/-- Only an engine step while busy, an accepted START, a reset and a power-up change STAGE (43_dissector.md R212). -/
theorem applyEvent_stage {e : Event} {s t : State} (h : applyEvent e s = .next t) (hne : t.stage ≠ s.stage) :
    (e = .engine ∧ s.busy = true) ∨ ((∃ a d, e = .bus a ∧ decodeAccess a = .hostStart d) ∧ s.busy = false) ∨
      e = .reset ∨ e = .powerUp := by
  obtain ⟨rfl, h⟩ | ⟨a, rfl, h⟩ | ⟨rfl, -⟩ | ⟨rfl, -⟩ := applyEvent_cases h
  · refine .inl ⟨rfl, ?_⟩
    by_contra hb
    cases (engineStep_of_not_busy (Bool.eq_false_of_not_eq_true hb)).symm.trans h
    exact hne rfl
  · obtain ⟨⟨d, hd⟩, hb⟩ := exec_access_stage h hne
    exact .inr (.inl ⟨⟨a, d, rfl, hd⟩, hb⟩)
  · exact .inr (.inr (.inl rfl))
  · exact .inr (.inr (.inr rfl))

/-- Settles O43: one row of the table per stage, the operation from the selector and the stage from its answer. -/
theorem stageTransitions : Obligations.StageTransitions := by
  intro e s t h hx
  refine ⟨?_, ?_, ?_, ?_, ?_, ?_, applyEvent_stage hx⟩
  · rintro ⟨a, d, rfl, hd⟩ hs
    rw [applyEvent, hd, exec_hostStart_of_not_busy (s.stage.not_busy_iff.2 hs)] at hx
    cases hx
    rfl
  · rintro rfl hs
    have hok := h.not_failed (by simp [hs])
    refine ⟨(engineStep_of_engineOp (State.engineOp_eth hs)).symm.trans hx, ?_⟩
    cases engineStep_stageAnswer hs rfl hx with
    | ethFails => rfl
    | ethAccepts => exact (if_neg hok).symm
  · rintro rfl hs ht
    have hok := h.not_failed (by simp [hs])
    refine ⟨(engineStep_of_engineOp ((State.engineOp_net hs).trans (if_pos ht))).symm.trans hx, ?_⟩
    cases engineStep_stageAnswer hs rfl hx with
    | ipv4Fails => rfl
    | ipv4Accepts => exact (if_neg hok).symm
    | netUnrecognized ht' => exact absurd ht ht'
  · rintro rfl hs ht
    refine ⟨(engineStep_of_engineOp ((State.engineOp_net hs).trans (if_neg ht))).symm.trans hx, ?_⟩
    cases engineStep_stageAnswer hs rfl hx with
    | ipv4Fails ht' => exact absurd ht' ht
    | ipv4Accepts ht' => exact absurd ht' ht
    | netUnrecognized => rfl
  · rintro rfl hs
    cases engineStep_stageAnswer hs rfl hx <;> rfl
  · rintro (rfl | rfl) <;> cases hx <;> rfl

/-! ## Runs of events -/

/-- Every operation answers a next state (60_exceptions.md R263). -/
theorem exec_answers (i : Instr) (s : State) : ∃ t, exec i s = .next t := by
  cases i with
  | ethParse => simp only [exec, execEthParse]; split_ifs <;> exact ⟨_, rfl⟩
  | ipv4Parse => simp only [exec, execIpv4Parse]; split_ifs <;> exact ⟨_, rfl⟩
  | icmpParse => simp only [exec, execIcmpParse]; split_ifs <;> exact ⟨_, rfl⟩
  | tcpParse => simp only [exec, execTcpParse]; split_ifs <;> exact ⟨_, rfl⟩
  | udpParse => simp only [exec, execUdpParse]; split_ifs <;> exact ⟨_, rfl⟩
  | hostStart => simp only [exec, execHostStart]; split_ifs <;> exact ⟨_, rfl⟩
  | hostWriteFb => simp only [exec, execHostWriteFb]; split_ifs <;> exact ⟨_, rfl⟩
  | hostWriteFrameLen => simp only [exec, execHostWriteFrameLen]; split_ifs <;> exact ⟨_, rfl⟩
  | netUnrecognized | trnUnrecognized | hostReadReg | hostReadFb => exact ⟨_, rfl⟩
  | hostWriteIgnored access => obtain ⟨_ | _, _, _⟩ := access <;> exact ⟨_, rfl⟩

theorem engineStep_answers (s : State) : ∃ t, engineStep s = .next t := by
  cases h : s.engineOp with
  | none => exact ⟨s, engineStep_of_not_busy (s.engineOp_eq_none_iff.1 h)⟩
  | some i =>
    rw [engineStep_of_engineOp h]
    exact exec_answers i s

/-- While busy, a host operation changes at most what the last read returned (20_memory.md R88). -/
theorem exec_access_of_busy {s : State} (hb : s.busy = true) (a : BusAccess) :
    ∃ v, exec (decodeAccess a) s = .next { s with readData := v } := by
  obtain ⟨t, ht⟩ := exec_answers (decodeAccess a) s
  obtain rfl | ⟨v, rfl⟩ | ⟨hn, -⟩ | ⟨hn, -⟩ | ⟨hn, -⟩ := exec_access_cases ht
  · exact ⟨_, ht⟩
  · exact ⟨v, ht⟩
  all_goals cases hb.symm.trans hn

theorem runEvents_append {pre : List Event} (rest : List Event) {s u : State} (h : runEvents pre s = .next u) :
    runEvents (pre ++ rest) s = runEvents rest u := by
  induction pre generalizing s with
  | nil => cases h; rfl
  | cons e es ih =>
    simp only [List.cons_append, runEvents] at h ⊢
    cases he : applyEvent e s with
    | next v => rw [he] at h; exact ih h
    | fault r => rw [he] at h; cases h
    | refused r => rw [he] at h; cases h

theorem engineSteps_append (pre rest : List Event) : engineSteps (pre ++ rest) = engineSteps pre + engineSteps rest := by
  induction pre with
  | nil => exact (Nat.zero_add _).symm
  | cons e es ih => cases e <;> simp only [List.cons_append, engineSteps, ih, Nat.add_right_comm]

/-- A busy block runs up to and over the next engine step, which finds the registers and the frame as they are now. -/
theorem runEvents_engineStep {es : List Event} {s : State} (hb : s.busy = true) (hes : ∀ e ∈ es, e.running = true)
    (hn : 1 ≤ engineSteps es) :
    ∃ pre rest v t, es = pre ++ rest ∧ engineSteps pre = 1 ∧ runEvents pre s = .next t ∧
      engineStep { s with readData := v } = .next t := by
  induction es generalizing s with
  | nil => exact absurd hn (by decide)
  | cons e es ih =>
    obtain ⟨he, htail⟩ := List.forall_mem_cons.1 hes
    cases e with
    | engine =>
      obtain ⟨t, ht⟩ := engineStep_answers s
      exact ⟨[.engine], es, s.readData, t, rfl, rfl, by simp only [runEvents, applyEvent, ht], ht⟩
    | bus a =>
      obtain ⟨v, hv⟩ := exec_access_of_busy hb a
      obtain ⟨pre, rest, w, t, rfl, hone, hrun, ht⟩ := ih (s := { s with readData := v }) hb htail hn
      exact ⟨.bus a :: pre, rest, w, t, rfl, hone, by simp only [runEvents, applyEvent, hv, hrun], ht⟩
    | reset | powerUp => cases he

/-! ## The length of a dissection -/

/-- Along these events the block reaches DONE, in state `t`, after `n` engine steps. -/
def EndsAfter (s : State) (es : List Event) (n : Nat) (t : State) : Prop :=
  ∃ before after, es = before ++ after ∧ engineSteps before = n ∧ runEvents before s = .next t ∧ t.stage = .done

theorem EndsAfter.prepend {pre rest : List Event} {s u t : State} {n : Nat} (hu : runEvents pre s = .next u)
    (h : EndsAfter u rest n t) : EndsAfter s (pre ++ rest) (engineSteps pre + n) t := by
  obtain ⟨before, after, rfl, hn, hrun, hdone⟩ := h
  exact ⟨pre ++ before, after, (List.append_assoc ..).symm, by rw [engineSteps_append, hn],
    (runEvents_append before hu).trans hrun, hdone⟩

section
variable {es : List Event} {s : State} (hes : ∀ e ∈ es, e.running = true)
include hes

/-- From TRN one engine step is left (43_dissector.md R215). -/
theorem endsAfter_of_trn (hs : s.stage = .trn) (hl : s.errLayer = .none) (hn : 1 ≤ engineSteps es) :
    ∃ t, EndsAfter s es 1 t ∧ t.outcome ≠ .ethOnly ∧ t.errLayer ≠ .eth ∧ t.errLayer ≠ .ipv4 := by
  have hb := State.busy_of_stage hs rfl
  obtain ⟨pre, rest, v, t, rfl, hone, hrun, hx⟩ := runEvents_engineStep hb hes hn
  have ha := engineStep_stageAnswer (s := { s with readData := v }) hs rfl hx
  have hdone : t.stage = .done := by cases ha <;> rfl
  refine ⟨t, ⟨pre, rest, rfl, hone, hrun, hdone⟩, ?_⟩
  have heth : s.errLayer ≠ .eth := by rw [hl]; nofun
  have hipv4 : s.errLayer ≠ .ipv4 := by rw [hl]; nofun
  cases ha with
  | trnFails hlayer => exact ⟨nofun, hlayer⟩
  | icmpEnds | tcpEnds | udpEnds | trnUnrecognized => exact ⟨nofun, heth, hipv4⟩

/-- From NET one engine step is left when the ether_type is unrecognized or IPV4_PARSE fails, else two. -/
theorem endsAfter_of_net (hs : s.stage = .net) (hl : s.errLayer = .none) (hn : 2 ≤ engineSteps es) :
    ∃ t, (EndsAfter s es 1 t ∧ (t.outcome = .ethOnly ∨ t.errLayer = .ipv4)) ∨
      (EndsAfter s es 2 t ∧ t.outcome ≠ .ethOnly ∧ t.errLayer ≠ .eth ∧ t.errLayer ≠ .ipv4) := by
  have hb := State.busy_of_stage hs rfl
  obtain ⟨pre, rest, v, t, rfl, hone, hrun, hx⟩ := runEvents_engineStep hb hes (by omega)
  cases engineStep_stageAnswer (s := { s with readData := v }) hs rfl hx with
  | ipv4Fails => exact ⟨_, .inl ⟨⟨pre, rest, rfl, hone, hrun, rfl⟩, .inr rfl⟩⟩
  | netUnrecognized => exact ⟨_, .inl ⟨⟨pre, rest, rfl, hone, hrun, rfl⟩, .inl rfl⟩⟩
  | ipv4Accepts =>
    rw [engineSteps_append, hone] at hn
    obtain ⟨t, ht, hkind⟩ := endsAfter_of_trn (s := ipv4Accept { s with readData := v })
      (fun e he => hes e (List.mem_append_right _ he)) rfl hl (by omega)
    have hend := ht.prepend hrun
    rw [hone] at hend
    exact ⟨t, .inr ⟨hend, hkind⟩⟩

/-- From ETH one engine step is left when ETH_PARSE fails, else one more than from NET. -/
theorem endsAfter_of_eth (hs : s.stage = .eth) (hl : s.errLayer = .none) (hn : 3 ≤ engineSteps es) :
    ∃ t, (EndsAfter s es 1 t ∧ t.errLayer = .eth) ∨
      (EndsAfter s es 2 t ∧ (t.outcome = .ethOnly ∨ t.errLayer = .ipv4)) ∨
      (EndsAfter s es 3 t ∧ t.outcome ≠ .ethOnly ∧ t.errLayer ≠ .eth ∧ t.errLayer ≠ .ipv4) := by
  have hb := State.busy_of_stage hs rfl
  obtain ⟨pre, rest, v, t, rfl, hone, hrun, hx⟩ := runEvents_engineStep hb hes (by omega)
  cases engineStep_stageAnswer (s := { s with readData := v }) hs rfl hx with
  | ethFails => exact ⟨_, .inl ⟨⟨pre, rest, rfl, hone, hrun, rfl⟩, rfl⟩⟩
  | ethAccepts =>
    rw [engineSteps_append, hone] at hn
    obtain ⟨t, ⟨ht, hkind⟩ | ⟨ht, hkind⟩⟩ :=
      endsAfter_of_net (s := ethAccept { s with readData := v })
        (fun e he => hes e (List.mem_append_right _ he)) rfl hl (by omega)
    all_goals
      have hend := ht.prepend hrun
      rw [hone] at hend
    · exact ⟨t, .inr (.inl ⟨hend, hkind⟩)⟩
    · exact ⟨t, .inr (.inr ⟨hend, hkind⟩)⟩

end

/-- Settles O51: the engine steps left from ETH; the host operations in between are dropped or read. -/
theorem dissectionEndsWithinThreeSteps : Obligations.DissectionEndsWithinThreeSteps := by
  intro es s h hs hes hn
  have hl := (h.undecided (by simp [hs])).errLayer
  obtain ⟨t, ⟨⟨before, after, heq, hk, hrun, hdone⟩, hkind⟩ | ⟨⟨before, after, heq, hk, hrun, hdone⟩, hkind⟩ |
    ⟨⟨before, after, heq, hk, hrun, hdone⟩, hkind⟩⟩ := endsAfter_of_eth hes hs hl hn
  · exact ⟨before, after, t, heq, hrun, hdone, .inl ⟨hk, hkind⟩⟩
  · exact ⟨before, after, t, heq, hrun, hdone, .inr (.inl ⟨hk, hkind⟩)⟩
  · exact ⟨before, after, t, heq, hrun, hdone, .inr (.inr ⟨hk, hkind⟩)⟩

/-! ## Two dissections of one frame -/

theorem SameRegisters.sameResult {s s' : State} (h : SameRegisters s s') : SameResult s s' := by
  obtain ⟨-, hs, hcur, ho, hkind, hlayer, hv, hres⟩ := h
  refine ⟨hs, ?_, hres, hcur⟩
  simp only [State.statusWord, State.busy, State.doneFlag, State.errorFlag, hs, ho, hkind, hlayer, hv]

theorem SameResult.symm {s s' : State} (h : SameResult s s') : SameResult s' s := by
  obtain ⟨hs, hw, hres, hcur⟩ := h
  exact ⟨hs.symm, hw.symm, hres.symm, hcur.symm⟩

/-- The engine dispatches to engine operations only (30_encoding.md R117). -/
theorem isEngineOp_of_engineOp {s : State} {i : Instr} (h : s.engineOp = some i) : isEngineOp i = true := by
  cases hs : s.stage with
  | idle => rw [State.engineOp_idle hs] at h; cases h
  | eth => rw [State.engineOp_eth hs] at h; cases h; rfl
  | net => rw [State.engineOp_net hs] at h; split_ifs at h <;> cases h <;> rfl
  | trn => rw [State.engineOp_trn hs] at h; split_ifs at h <;> cases h <;> rfl
  | done => rw [State.engineOp_done hs] at h; cases h

theorem SameRegisters.engineOp {s s' : State} (h : SameRegisters s s') : s.engineOp = s'.engineOp := by
  obtain ⟨-, hs, -, -, -, -, -, hres⟩ := h
  simp only [State.engineOp, State.selector, hs, hres]

theorem EngineAnswer.cursor_le {s t : State} (ha : EngineAnswer s t) (hc : s.cursor.toNat ≤ s.frameLen.toNat) :
    t.cursor.toNat ≤ t.frameLen.toNat := by
  cases ha with
  | idle | abort | finish => exact hc
  | eth hs hn =>
    rw [ethAccept_cursor_toNat hc hn]
    show s.cursor.toNat + 14 ≤ s.frameLen.toNat
    rw [State.avail] at hn
    omega
  | ipv4 hs ht h5 hn =>
    rw [s.ihlOf_toNat] at hn
    rw [ipv4Accept_cursor_toNat hc hn]
    show s.cursor.toNat + 4 * s.ihl ≤ s.frameLen.toNat
    rw [State.avail] at hn
    omega

/-- Two blocks at the same point of a dissection of one frame, which START has begun. -/
structure SameDissection (s s' : State) : Prop where
  started   : s.stage ≠ .idle
  cursor    : s.cursor.toNat ≤ s.frameLen.toNat
  registers : SameRegisters s s'
  frame     : SameFrame s s'

theorem SameFrame.startDissection {s s' : State} (h : SameFrame s s') : SameDissection s.startDissection s'.startDissection :=
  ⟨nofun, Nat.zero_le _, ⟨h.1, rfl, rfl, rfl, rfl, rfl, rfl, rfl⟩, h⟩

/-- The engine steps a dissection takes at most from a stage on (43_dissector.md R215). -/
def Stage.stepsLeft : Stage → Nat
  | .idle => 0
  | .eth => 3
  | .net => 2
  | .trn => 1
  | .done => 0

theorem Stage.eq_done_of_stepsLeft {g : Stage} (hg : g ≠ .idle) (h : g.stepsLeft = 0) : g = .done := by
  cases g with
  | idle => exact absurd rfl hg
  | eth | net | trn => cases h
  | done => rfl

theorem StageAnswer.stepsLeft_lt {s t : State} {g : Stage} (ha : StageAnswer s g t) :
    t.stage ≠ .idle ∧ t.stage.stepsLeft < g.stepsLeft := by
  cases ha <;> exact ⟨nofun, of_decide_eq_true rfl⟩

/-- The same operation runs on the same registers and the same bytes. -/
theorem SameDissection.engineStep {s s' t t' : State} (h : SameDissection s s') (hb : s.busy = true)
    (ht : engineStep s = .next t) (ht' : engineStep s' = .next t') : SameDissection t t' := by
  obtain ⟨-, hc, hreg, hframe⟩ := h
  obtain ⟨hfb, hlen⟩ := engineStep_frame ht
  obtain ⟨hfb', hlen'⟩ := engineStep_frame ht'
  refine ⟨(engineStep_stageAnswer rfl hb ht).stepsLeft_lt.1, (engineStep_answer ht).cursor_le hc, ?_,
    by rw [hlen, hlen', hframe.1], fun a ha => by rw [hfb, hfb', hframe.2 a (hlen ▸ ha)]⟩
  cases hop : s.engineOp with
  | none => cases hb.symm.trans (s.engineOp_eq_none_iff.1 hop)
  | some i =>
    rw [engineStep_of_engineOp hop] at ht
    rw [engineStep_of_engineOp (hreg.engineOp ▸ hop)] at ht'
    exact engineReadsOnlyTheFrame i s s' t t' (isEngineOp_of_engineOp hop) hc hreg hframe ht ht'

theorem Event.running_of_harmless {e : Event} (h : e.harmless = true) : e.running = true := by
  cases e with
  | engine | bus => rfl
  | reset | powerUp => cases h

/-- A START is a write, so reads and engine steps end no result (20_memory.md R89). -/
theorem Event.not_endsResult_of_harmless {e : Event} (h : e.harmless = true) : ¬ e.endsResult := by
  rintro (rfl | rfl | ⟨⟨dir, width, offset⟩, d, rfl, hd⟩)
  · cases h
  · cases h
  · cases dir with
    | read =>
      simp only [decodeAccess] at hd
      split_ifs at hd
    | write _ => cases h

/-- At DONE the events that follow keep the result. -/
theorem runEvents_harmless_at_done {es : List Event} {s t : State} (hs : s.stage = .done) (hes : ∀ e ∈ es, e.harmless = true)
    (h : runEvents es s = .next t) : SameResult t s := by
  obtain ⟨u, hu, hsame⟩ := resultStaysAtDone es s hs fun e he => Event.not_endsResult_of_harmless (hes e he)
  cases hu.symm.trans h
  exact hsame

theorem SameDissection.at_done {s s' t t' : State} {es es' : List Event} (h : SameDissection s s') (hs : s.stage = .done)
    (hes : ∀ e ∈ es, e.harmless = true) (hes' : ∀ e ∈ es', e.harmless = true)
    (ht : runEvents es s = .next t) (ht' : runEvents es' s' = .next t') : t.stage = .done ∧ SameResult t t' := by
  have hsame := h.registers.sameResult
  have hkeep := runEvents_harmless_at_done hs hes ht
  have hkeep' := runEvents_harmless_at_done (hsame.1.symm.trans hs) hes' ht'
  exact ⟨hkeep.1.trans hs, (hkeep.trans hsame).trans hkeep'.symm⟩

/-- By induction on the engine steps left: both blocks run over their next engine step, which keeps them at the same point. -/
theorem SameDissection.sameResult {n : Nat} {s s' t t' : State} {es es' : List Event} (h : SameDissection s s')
    (hleft : s.stage.stepsLeft ≤ n) (hn : n ≤ engineSteps es) (hn' : n ≤ engineSteps es')
    (hes : ∀ e ∈ es, e.harmless = true) (hes' : ∀ e ∈ es', e.harmless = true)
    (ht : runEvents es s = .next t) (ht' : runEvents es' s' = .next t') : t.stage = .done ∧ SameResult t t' := by
  induction n generalizing s s' es es' with
  | zero => exact h.at_done (Stage.eq_done_of_stepsLeft h.started (Nat.le_zero.1 hleft)) hes hes' ht ht'
  | succ n ih =>
    by_cases hs : s.stage = .done
    · exact h.at_done hs hes hes' ht ht'
    have hb : s.busy = true := State.busy_of_ne h.started hs
    have hb' : s'.busy = true := State.busy_of_stage h.registers.sameResult.1.symm hb
    obtain ⟨pre, rest, v, u, rfl, hone, hrun, hu⟩ :=
      runEvents_engineStep hb (fun e he => Event.running_of_harmless (hes e he)) (by omega)
    obtain ⟨pre', rest', v', u', rfl, hone', hrun', hu'⟩ :=
      runEvents_engineStep hb' (fun e he => Event.running_of_harmless (hes' e he)) (by omega)
    rw [engineSteps_append, hone] at hn
    rw [engineSteps_append, hone'] at hn'
    rw [runEvents_append rest hrun] at ht
    rw [runEvents_append rest' hrun'] at ht'
    have hread : SameDissection { s with readData := v } { s' with readData := v' } :=
      ⟨h.started, h.cursor, h.registers, h.frame⟩
    obtain ⟨-, hlt⟩ := (engineStep_stageAnswer (s := { s with readData := v }) rfl hb hu).stepsLeft_lt
    have hlt : u.stage.stepsLeft < s.stage.stepsLeft := hlt
    exact ih (hread.engineStep hb hu hu') (by omega) (by omega) (by omega)
      (fun e he => hes e (List.mem_append_right _ he)) (fun e he => hes' e (List.mem_append_right _ he)) ht ht'

/-- A write to CTRL with bit 0 set starts a block that is not busy, and the other events follow. -/
theorem runEvents_start {s : State} (hb : s.busy = false) (d : Word) (es : List Event) :
    runEvents (.bus ⟨.write (d ||| 1#32), 32#8, 0#32⟩ :: es) s = runEvents es s.startDissection := by
  have hbit : (d ||| 1#32).getLsbD 0 = true := by simp
  simp only [runEvents, applyEvent, decodeAccess_start hbit, exec_hostStart_of_not_busy hb]

/-- Settles O52: START brings both blocks to the same point, and three engine steps are left at most. -/
theorem dissectionIsDeterministic : Obligations.DissectionIsDeterministic := by
  intro s s' t t' es es' d d' hf hb hb' hes hes' hn hn' ht ht'
  rw [runEvents_start hb] at ht
  rw [runEvents_start hb'] at ht'
  exact hf.startDissection.sameResult (Nat.le_refl 3) hn hn' hes hes' ht ht'

end Sys2Proof.Machine
end

section
/-! PROOFS. The family 44_host_rendering.md: pieces of text joined by a separator, the digits of a byte, the rendering of a hardware
address, and the lines of a hex dump (O55, O56). -/

namespace Sys2Proof.Machine

/-! ## Joined text -/

theorem joinText_cons (sep t : List Char) (ts : List (List Char)) :
    joinText sep (t :: ts) = (t :: ts.map (sep ++ ·)).flatten := by
  induction ts generalizing t with
  | nil => simp [joinText]
  | cons u us ih => simp [joinText, ih]

theorem joinText_concat (sep t : List Char) {ts : List (List Char)} (hts : ts ≠ []) :
    joinText sep (ts ++ [t]) = joinText sep ts ++ sep ++ t := by
  obtain ⟨u, us, rfl⟩ := List.exists_cons_of_ne_nil hts
  simp [joinText_cons]

/-- Pieces of one width can be read back from the joined text, because every piece stands at a fixed place in it. -/
theorem joinText_map_inj {α : Type} {f : α → List Char} {n : Nat} (sep : List Char) (hf : Function.Injective f)
    (hn : ∀ a, (f a).length = n) {l l' : List α} (hl : l.length = l'.length)
    (h : joinText sep (l.map f) = joinText sep (l'.map f)) : l = l' := by
  match l, l' with
  | [], [] => rfl
  | a :: as, a' :: as' =>
    have hwidths : ((f a :: (as.map f).map (sep ++ ·)).map List.length) =
        ((f a' :: (as'.map f).map (sep ++ ·)).map List.length) := by
      simpa [Function.comp_def, hn, List.map_const'] using hl
    rw [List.map_cons, List.map_cons, joinText_cons, joinText_cons] at h
    obtain ⟨hhead, htail⟩ := List.cons.inj (List.eq_iff_flatten_eq.2 ⟨h, hwidths⟩)
    have has : as = as' := List.map_injective_iff.2 hf (List.map_injective_iff.2 (List.append_right_injective sep) htail)
    rw [hf hhead, has]

/-! ## The digits of a byte and of a hardware address (R240) -/

theorem hexDigit_injective (upper : Bool) : Function.Injective (hexDigit upper) := by
  have digits : ∀ (u : Bool) (n n' : BitVec 4), hexDigit u n = hexDigit u n' → n = n' := by decide
  exact @digits upper

@[simp] theorem length_hexByte (upper : Bool) (b : Byte) : (hexByte upper b).length = 2 := rfl

theorem nibbles_append (b : Byte) : b.extractLsb' 4 4 ++ b.extractLsb' 0 4 = b := BitVec.extractLsb'_append_extractLsb'

theorem hexByte_injective (upper : Bool) : Function.Injective (hexByte upper) := by
  intro b b' h
  simp only [hexByte, List.cons.injEq, and_true] at h
  obtain ⟨hhigh, hlow⟩ := h
  calc b = b.extractLsb' 4 4 ++ b.extractLsb' 0 4 := (nibbles_append b).symm
    _ = b'.extractLsb' 4 4 ++ b'.extractLsb' 0 4 := by
      rw [hexDigit_injective upper hhigh, hexDigit_injective upper hlow]
    _ = b' := nibbles_append b'

theorem bytes6_injective : Function.Injective bytes6 := by
  intro m m' h
  simp only [bytes6, List.cons.injEq, and_true, ← BitVec.toNat_inj, BitVec.extractLsb'_toNat] at h
  bv_omega

theorem renderMac_eq (m : Mac) : renderMac m = joinText [':'] ((bytes6 m).map (hexByte true)) := rfl

/-- Settles O55: the bytes of an address can be read back from its rendering, and the address from its bytes. -/
theorem macRenderingIsFaithful : Obligations.MacRenderingIsFaithful := by
  refine ⟨fun m => ?_, fun m m' h => ?_⟩
  · simp [renderMac_eq, bytes6, joinText_cons]
  · rw [renderMac_eq, renderMac_eq] at h
    exact bytes6_injective (joinText_map_inj [':'] (hexByte_injective true) (length_hexByte true) rfl h)

/-! ## The lines of a hex dump (R242) -/

/-- What stands after the label on the line of a run of bytes. -/
def dumpBody (fmt : HexFormat) (run : List Byte) : List Char := joinText fmt.separator (run.map (hexCell fmt))

theorem dumpBody_singleton (fmt : HexFormat) (b : Byte) : dumpBody fmt [b] = hexCell fmt b := rfl

theorem dumpBody_concat (fmt : HexFormat) {run : List Byte} (hrun : run ≠ []) (b : Byte) :
    dumpBody fmt (run ++ [b]) = dumpBody fmt run ++ fmt.separator ++ hexCell fmt b := by
  rw [dumpBody, List.map_append]
  exact joinText_concat fmt.separator (hexCell fmt b) (mt List.map_eq_nil_iff.1 hrun)

/-- Every byte has a cell of one width, so a line with room for one cell has room for any. -/
theorem length_hexCell (fmt : HexFormat) (b : Byte) : (hexCell fmt b).length = fmt.before.length + 2 + fmt.after.length := by
  simp [hexCell, Nat.add_assoc]

/-- The bodies are those of runs that give the bytes in order, none of them empty and none wider than `room`. -/
def BodiesShow (fmt : HexFormat) (room : Nat) (bytes : List Byte) (bodies : List (List Char)) : Prop :=
  ∃ runs : List (List Byte), runs.flatten = bytes ∧ bodies = runs.map (dumpBody fmt) ∧
    ∀ run ∈ runs, run ≠ [] ∧ (dumpBody fmt run).length ≤ room

section
variable {fmt : HexFormat} {room : Nat}

theorem BodiesShow.singleton {run : List Byte} (hrun : run ≠ []) (hfits : (dumpBody fmt run).length ≤ room) :
    BodiesShow fmt room run [dumpBody fmt run] :=
  ⟨[run], by simp, rfl, by simpa using ⟨hrun, hfits⟩⟩

theorem BodiesShow.cons {run bytes : List Byte} {bodies : List (List Char)} (hrun : run ≠ [])
    (hfits : (dumpBody fmt run).length ≤ room) (h : BodiesShow fmt room bytes bodies) :
    BodiesShow fmt room (run ++ bytes) (dumpBody fmt run :: bodies) := by
  obtain ⟨runs, rfl, rfl, hruns⟩ := h
  exact ⟨run :: runs, rfl, rfl, List.forall_mem_cons.2 ⟨⟨hrun, hfits⟩, hruns⟩⟩

/-- By induction on the bytes left: the next byte joins the line under way where its cell fits, and begins a new line elsewhere. -/
theorem bodiesShow_dumpBodies (hcell : ∀ b, (hexCell fmt b).length ≤ room) {run : List Byte} (hrun : run ≠ [])
    (hfits : (dumpBody fmt run).length ≤ room) (bytes : List Byte) :
    BodiesShow fmt room (run ++ bytes) (dumpBodies fmt room (dumpBody fmt run) bytes) := by
  induction bytes generalizing run with
  | nil =>
    rw [dumpBodies, List.append_nil]
    exact .singleton hrun hfits
  | cons b bytes ih =>
    rw [dumpBodies]
    split
    next hjoins =>
      have hfits' : (dumpBody fmt (run ++ [b])).length ≤ room := by
        simpa [dumpBody_concat fmt hrun, Nat.add_assoc] using hjoins
      rw [← dumpBody_concat fmt hrun, List.append_cons]
      exact ih (List.append_ne_nil_of_right_ne_nil run (List.cons_ne_nil b [])) hfits'
    next => exact .cons hrun hfits (ih (run := [b]) (List.cons_ne_nil b []) (hcell b))

end

theorem hexDump_cons_of_fits {fmt : HexFormat} {label : List Char} {b : Byte}
    (h : label.length + (hexCell fmt b).length ≤ dumpColumns) (bytes : List Byte) :
    hexDump fmt label (b :: bytes) =
      (dumpBodies fmt (dumpColumns - label.length) (hexCell fmt b) bytes).map (label ++ ·) := if_pos h

/-- Settles O56: the bodies of the lines show the bytes, from the line that holds the first byte alone. -/
theorem dumpLinesFitColumns : Obligations.DumpLinesFitColumns := by
  intro fmt label b bytes h
  have hcell (c : Byte) : (hexCell fmt c).length ≤ dumpColumns - label.length := by
    rw [length_hexCell] at h ⊢
    exact Nat.le_sub_of_add_le' h
  obtain ⟨runs, hflat, hbodies, hruns⟩ :=
    bodiesShow_dumpBodies hcell (List.cons_ne_nil b []) (hcell b) bytes
  refine ⟨runs, hflat, ?_, hruns⟩
  rw [hexDump_cons_of_fits h, ← dumpBody_singleton, hbodies, List.map_map]
  rfl

end Sys2Proof.Machine
end

section
/-! PROOFS. The family 60_exceptions.md: every step answers, which conditions raise which error, what an abort is, and the version
warning (O10, O18, O26, O27, O28). -/

namespace Sys2Proof.Machine

/-! ## Every step answers -/

theorem applyEvent_answers (e : Event) (s : State) : ∃ t, applyEvent e s = .next t := by
  cases e with
  | engine => exact engineStep_answers s
  | bus access => exact exec_answers (decodeAccess access) s
  | reset | powerUp => exact ⟨_, rfl⟩

/-- Settles O10: a step is an engine step or an event, and both answer. -/
theorem stepAlwaysAnswersNext : Obligations.StepAlwaysAnswersNext := by
  intro s
  unfold step
  split
  · exact engineStep_answers s
  · exact applyEvent_answers _ _

/-! ## What raises an error -/

/-- The layer an operation tags its errors with (60_exceptions.md R251, R252). -/
def taggedLayer : Instr → ErrLayer
  | .ethParse => .eth
  | .ipv4Parse => .ipv4
  | .icmpParse => .icmp
  | .tcpParse => .tcp
  | .udpParse => .udp
  | _ => .none

/-- The rows of 60_exceptions.md R251 and R252: the operation, its condition and the error it raises. -/
inductive Raises (s : State) : Instr → ErrKind → Prop where
  | ethShort (h : s.avail < 14) : Raises s .ethParse .truncatedInput
  | ipv4Short (h : s.avail < 20) : Raises s .ipv4Parse .truncatedInput
  | ipv4Long (h5 : 5 ≤ s.ihl) (h : s.avail < 4 * s.ihl) : Raises s .ipv4Parse .truncatedInput
  | icmpShort (h : s.avail < 4) : Raises s .icmpParse .truncatedInput
  | tcpShort (h : s.avail < 14) : Raises s .tcpParse .truncatedInput
  | tcpLong (h5 : 5 ≤ s.dataOffset) (h : s.avail < 4 * s.dataOffset) : Raises s .tcpParse .truncatedInput
  | udpShort (h : s.avail < 8) : Raises s .udpParse .truncatedInput
  | ipv4SmallIhl (h20 : 20 ≤ s.avail) (h5 : s.ihl < 5) : Raises s .ipv4Parse .badHeaderLength
  | tcpSmallOffset (h14 : 14 ≤ s.avail) (h5 : s.dataOffset < 5) : Raises s .tcpParse .badHeaderLength

section
variable {i : Instr} {s t : State} {kind : ErrKind}

theorem Raises.kind_ne_none (h : Raises s i kind) : kind ≠ .none := by
  cases h <;> nofun

theorem Raises.taggedLayer_ne_none (h : Raises s i kind) : taggedLayer i ≠ .none := by
  cases h <;> nofun

/-- Each row makes its operation abort. -/
theorem Raises.exec_eq (h : Raises s i kind) : exec i s = .next (s.abort kind (taggedLayer i)) := by
  cases h with
  | ethShort h => exact execEthParse_of_short h
  | ipv4Short h => exact execIpv4Parse_of_short h
  | ipv4Long h5 h =>
    obtain h20 | h20 := Nat.lt_or_ge s.avail 20
    · exact execIpv4Parse_of_short h20
    · exact execIpv4Parse_of_long_ihl h20 h5 h
  | icmpShort h => exact execIcmpParse_of_short h
  | tcpShort h => exact execTcpParse_of_short h
  | tcpLong h5 h =>
    obtain h14 | h14 := Nat.lt_or_ge s.avail 14
    · exact execTcpParse_of_short h14
    · exact execTcpParse_of_long_dataOffset h14 h5 h
  | udpShort h => exact execUdpParse_of_short h
  | ipv4SmallIhl h20 h5 => exact execIpv4Parse_of_small_ihl h20 h5
  | tcpSmallOffset h14 h5 => exact execTcpParse_of_small_dataOffset h14 h5

/-- An engine operation aborts by one of the rows, or it raises nothing: ERR_KIND stays and OUTCOME does not become FAILED. -/
theorem exec_engineOp_raises (hi : isEngineOp i = true) (h : exec i s = .next t) :
    (∃ kind, Raises s i kind ∧ t = s.abort kind (taggedLayer i)) ∨
      (t.errKind = s.errKind ∧ (s.outcome ≠ .failed → t.outcome ≠ .failed)) := by
  cases i with
  | ethParse =>
    obtain ⟨hn, rfl⟩ | ⟨-, rfl⟩ := execEthParse_cases h
    · exact .inl ⟨_, .ethShort hn, rfl⟩
    · exact .inr ⟨rfl, id⟩
  | ipv4Parse =>
    have hcases := execIpv4Parse_cases h
    rw [s.ihlOf_toNat] at hcases
    obtain ⟨hn, rfl⟩ | ⟨h20, h5, rfl⟩ | ⟨-, h5, hn, rfl⟩ | ⟨-, -, rfl⟩ := hcases
    · exact .inl ⟨_, .ipv4Short hn, rfl⟩
    · exact .inl ⟨_, .ipv4SmallIhl h20 h5, rfl⟩
    · exact .inl ⟨_, .ipv4Long h5 hn, rfl⟩
    · exact .inr ⟨rfl, id⟩
  | icmpParse =>
    obtain ⟨hn, rfl⟩ | ⟨-, rfl⟩ := execIcmpParse_cases h
    · exact .inl ⟨_, .icmpShort hn, rfl⟩
    · exact .inr ⟨rfl, nofun⟩
  | tcpParse =>
    have hcases := execTcpParse_cases h
    rw [s.dataOffsetOf_toNat] at hcases
    obtain ⟨hn, rfl⟩ | ⟨h14, h5, rfl⟩ | ⟨-, h5, hn, rfl⟩ | ⟨-, -, rfl⟩ := hcases
    · exact .inl ⟨_, .tcpShort hn, rfl⟩
    · exact .inl ⟨_, .tcpSmallOffset h14 h5, rfl⟩
    · exact .inl ⟨_, .tcpLong h5 hn, rfl⟩
    · exact .inr ⟨rfl, nofun⟩
  | udpParse =>
    obtain ⟨hn, rfl⟩ | ⟨-, rfl⟩ := execUdpParse_cases h
    · exact .inl ⟨_, .udpShort hn, rfl⟩
    · exact .inr ⟨rfl, nofun⟩
  | netUnrecognized | trnUnrecognized => cases h; exact .inr ⟨rfl, nofun⟩
  | hostStart | hostWriteFb | hostWriteFrameLen | hostReadReg | hostReadFb | hostWriteIgnored => cases hi

/-- An engine operation that fails is an abort by one of the rows. -/
theorem exec_engineOp_failed (hi : isEngineOp i = true) (hs : s.outcome ≠ .failed) (h : exec i s = .next t)
    (ht : t.outcome = .failed) : ∃ kind, Raises s i kind ∧ t = s.abort kind (taggedLayer i) := by
  obtain hraise | ⟨-, hok⟩ := exec_engineOp_raises hi h
  · exact hraise
  · exact absurd ht (hok hs)

/-- From a state without an error, an error kind afterwards is one that a row raises. -/
theorem raises_of_errKind (hi : isEngineOp i = true) (hs : s.errKind = .none) (h : exec i s = .next t)
    (hk : kind ≠ .none) (ht : t.errKind = kind) : Raises s i kind ∧ t = s.abort kind (taggedLayer i) := by
  obtain ⟨kind', hraise, rfl⟩ | ⟨hkeep, -⟩ := exec_engineOp_raises hi h
  · cases ht
    exact ⟨hraise, rfl⟩
  · exact absurd (ht.symm.trans (hkeep.trans hs)) hk

theorem errKind_eq_iff_raises (hi : isEngineOp i = true) (hs : s.errKind = .none) (h : exec i s = .next t)
    (hk : kind ≠ .none) : t.errKind = kind ↔ Raises s i kind := by
  refine ⟨fun ht => (raises_of_errKind hi hs h hk ht).1, fun hraise => ?_⟩
  cases hraise.exec_eq.symm.trans h
  rfl

end

/-- Settles O27: the rows of R251, and the abort they end in. -/
theorem truncatedInputExactly : Obligations.TruncatedInputExactly := by
  intro i s t avail hlen hs hi hx
  obtain rfl := State.avail_eq hlen
  refine ⟨(errKind_eq_iff_raises hi hs hx (by decide)).trans ⟨fun hraise => ?_, ?_⟩, fun ht => ?_⟩
  · cases hraise with
    | ethShort h => exact .inl ⟨rfl, h⟩
    | ipv4Short h => exact .inr (.inl ⟨rfl, h⟩)
    | ipv4Long h5 h => exact .inr (.inr (.inl ⟨rfl, h5, h⟩))
    | icmpShort h => exact .inr (.inr (.inr (.inl ⟨rfl, h⟩)))
    | tcpShort h => exact .inr (.inr (.inr (.inr (.inl ⟨rfl, h⟩))))
    | tcpLong h5 h => exact .inr (.inr (.inr (.inr (.inr (.inl ⟨rfl, h5, h⟩)))))
    | udpShort h => exact .inr (.inr (.inr (.inr (.inr (.inr ⟨rfl, h⟩)))))
  · rintro (⟨rfl, h⟩ | ⟨rfl, h⟩ | ⟨rfl, h5, h⟩ | ⟨rfl, h⟩ | ⟨rfl, h⟩ | ⟨rfl, h5, h⟩ | ⟨rfl, h⟩)
    exacts [.ethShort h, .ipv4Short h, .ipv4Long h5 h, .icmpShort h, .tcpShort h, .tcpLong h5 h, .udpShort h]
  · obtain ⟨-, rfl⟩ := raises_of_errKind hi hs hx (by decide) ht
    exact ⟨rfl, rfl, congrArg taggedLayer, congrArg taggedLayer, congrArg taggedLayer, congrArg taggedLayer,
      congrArg taggedLayer⟩

/-- Settles O28: the rows of R252, and the abort they end in. -/
theorem badHeaderLengthExactly : Obligations.BadHeaderLengthExactly := by
  intro i s t avail hlen hs hi hx
  obtain rfl := State.avail_eq hlen
  refine ⟨(errKind_eq_iff_raises hi hs hx (by decide)).trans ⟨fun hraise => ?_, ?_⟩, fun ht => ?_⟩
  · cases hraise with
    | ipv4SmallIhl h20 h5 => exact .inl ⟨rfl, h20, h5⟩
    | tcpSmallOffset h14 h5 => exact .inr ⟨rfl, h14, h5⟩
  · rintro (⟨rfl, h20, h5⟩ | ⟨rfl, h14, h5⟩)
    exacts [.ipv4SmallIhl h20 h5, .tcpSmallOffset h14 h5]
  · obtain ⟨-, rfl⟩ := raises_of_errKind hi hs hx (by decide) ht
    exact ⟨rfl, rfl, congrArg taggedLayer, congrArg taggedLayer⟩

/-! ## What an abort is -/

/-- Every register from PAYLOAD_OFF on shows a result register (10_state.md R49). -/
theorem State.regValue_of_results_zero {s : State} (h : s.results = Results.zero) {r : HostReg}
    (hr : 0x014 ≤ r.offset.toNat) : s.regValue r = 0 := by
  cases r with
  | ctrl | status | frameLen | stage | cursor => exact absurd hr (by decide)
  | _ => rw [State.regValue, h]; rfl

theorem State.readReg_of_results_zero {s : State} (h : s.results = Results.zero) {o : Half} (ho : 0x014 ≤ o.toNat) :
    s.readReg o = 0 := by
  by_cases hreg : ∃ r : HostReg, r.offset = o
  · obtain ⟨r, rfl⟩ := hreg
    rw [State.readReg_offset, State.regValue_of_results_zero h ho]
  · exact s.readReg_reserved fun r hr => hreg ⟨r, hr⟩

/-- STATUS after an abort: DONE, ERROR, OUTCOME FAILED, the kind and the layer (10_state.md R39). -/
theorem State.abort_statusWord_toNat (s : State) (kind : ErrKind) (layer : ErrLayer) :
    (s.abort kind layer).statusWord.toNat = 0x2 + 0x4 + 6 * 16 + kind.code.toNat * 256 + layer.code.toNat * 4096 := by
  change (State.reset.abort kind layer).statusWord.toNat = _
  cases kind <;> cases layer <;> decide

/-- Settles O26: the registers and STATUS of an abort, and the rows as the only way to fail. -/
theorem abortIsTheWholeEffect : Obligations.AbortIsTheWholeEffect := by
  refine ⟨fun kind layer s => ⟨rfl, fun o ho => State.readReg_of_results_zero rfl ho⟩, fun s => ⟨?_, ?_⟩,
    fun i s t hi hs h ht => ?_⟩
  · exact BitVec.eq_of_toNat_eq (s.abort_statusWord_toNat .truncatedInput .eth)
  · simp only [State.abort_statusWord_toNat]
    decide
  · obtain ⟨kind, hraise, rfl⟩ := exec_engineOp_failed hi hs h ht
    exact ⟨kind, taggedLayer i, hraise.kind_ne_none, hraise.taggedLayer_ne_none, rfl⟩

/-! ## The version warning -/

theorem State.ihlOf_eq_of_ihl {s s' : State} (h : s.ihl = s'.ihl) : ihlOf s.ipv4FirstByte = ihlOf s'.ipv4FirstByte :=
  BitVec.eq_of_toNat_eq (by rw [s.ihlOf_toNat, s'.ihlOf_toNat, h])

section
variable {s s' : State} (h : SameRegisters s s') (hihl : s.ihl = s'.ihl)
include h hihl

/-- The checks of IPV4_PARSE see the registers and IHL, not the version (41_ipv4.md R161). -/
theorem execIpv4Parse_same_checks :
    (∃ kind, execIpv4Parse s = .next (s.abort kind .ipv4) ∧ execIpv4Parse s' = .next (s'.abort kind .ipv4)) ∨
      (execIpv4Parse s = .next (ipv4Accept s) ∧ execIpv4Parse s' = .next (ipv4Accept s')) := by
  unfold execIpv4Parse
  simp only [← h.lacks, ← State.ihlOf_eq_of_ihl hihl]
  split_ifs
  · exact .inl ⟨_, rfl, rfl⟩
  · exact .inl ⟨_, rfl, rfl⟩
  · exact .inl ⟨_, rfl, rfl⟩
  · exact .inr ⟨rfl, rfl⟩

/-- What an accepted header writes beside VMISMATCH and IP_VERSION sees its first byte through IHL alone (41_ipv4.md R160). -/
theorem SameRegisters.ipv4Accept_butVersion (hb : ∀ a, a ≠ s.cursor.toNat → s.fbByte a = s'.fbByte a) :
    SameRegisters
      { ipv4Accept s with vmismatch := false, results := { (ipv4Accept s).results with ipVersion := 0 } }
      { ipv4Accept s' with vmismatch := false, results := { (ipv4Accept s').results with ipVersion := 0 } } := by
  have hihlOf := State.ihlOf_eq_of_ihl hihl
  have hrest : SameBytes s s' (s.cursor.toNat + 8) 12 := fun a ha _ => hb a (by omega)
  obtain ⟨hlen, -, hcur, ho, hkind, hlayer, -, hres⟩ := h
  refine ⟨hlen, rfl, ?_, ho, hkind, hlayer, rfl, ?_⟩
  · simp only [ipv4Accept, hihlOf, hcur]
  · simp only [ipv4Accept, ← hihlOf, ← hcur, ← hres, (hrest.sub (s.cursor.toNat + 8) 1).memRead1,
      (hrest.sub (s.cursor.toNat + 9) 1).memRead1, (hrest.sub (s.cursor.toNat + 12) 4).memBytes4,
      (hrest.sub (s.cursor.toNat + 16) 4).memBytes4]

end

/-- Settles O18: both runs abort alike or both accept; START, reset and an abort write VMISMATCH 0. -/
theorem versionMismatchOnlyWarns : Obligations.VersionMismatchOnlyWarns := by
  refine ⟨fun s s' t t' h henv hb hihl hver ht ht' => ?_, fun s t d hidle ht => ?_, fun s t ht => ?_,
    fun i s t hi hs ht hfailed => ?_⟩
  · obtain ⟨kind, hx, hx'⟩ | ⟨hx, hx'⟩ := execIpv4Parse_same_checks h hihl
    · cases hx.symm.trans ht
      cases hx'.symm.trans ht'
      obtain ⟨hlen, -, hcur, -⟩ := h
      exact ⟨⟨hlen, rfl, hcur, rfl, rfl, rfl, rfl, rfl⟩, henv, fun _ => rfl, fun hne => absurd rfl hne⟩
    · cases hx.symm.trans ht
      cases hx'.symm.trans ht'
      have hfour : versionMismatch s.ipv4FirstByte = false := by
        rw [s.versionMismatch_eq, decide_eq_false (not_not.2 hver)]
      exact ⟨h.ipv4Accept_butVersion hihl hb, henv, nofun, fun _ => ⟨rfl, hfour, s'.versionMismatch_eq⟩⟩
  · cases (exec_hostStart_of_not_busy hidle d).symm.trans ht
    rfl
  · cases ht
    rfl
  · obtain ⟨kind, -, rfl⟩ := exec_engineOp_failed hi hs ht hfailed
    rfl

end Sys2Proof.Machine
end

section
/-! PROOFS. The family 70_reset_and_hazards.md: reset and power-up, and what a read gives after them (O37, O38). -/

namespace Sys2Proof.Machine

/-! ## The registers after reset and power-up -/

theorem State.resetBlock_sameRegisters (s : State) : SameRegisters s.resetBlock State.reset :=
  ⟨rfl, rfl, rfl, rfl, rfl, rfl, rfl, rfl⟩

/-- The draw of new FB bytes touches no register (70_reset_and_hazards.md R291). -/
theorem State.powerUpBlock_sameRegisters (s : State) : SameRegisters s.powerUpBlock State.reset :=
  s.resetBlock_sameRegisters

/-! ## What a read gives after them -/

@[simp] theorem State.reset_statusWord : State.reset.statusWord = 0 := by decide

theorem State.resetBlock_statusWord (s : State) : s.resetBlock.statusWord = 0 := by
  obtain ⟨-, hstatus, -, -⟩ := s.resetBlock_sameRegisters.sameResult
  rw [hstatus, State.reset_statusWord]

theorem State.reset_regValue (r : HostReg) : State.reset.regValue r = 0 := by
  cases r with
  | status => exact State.reset_statusWord
  | ctrl | frameLen | stage | cursor => rfl
  | _ => exact State.regValue_of_results_zero State.reset_results (by decide)

/-- Reserved offsets read 0 in any state (10_state.md R50), so the named registers decide. -/
theorem State.readReg_eq_zero {s : State} (h : ∀ r : HostReg, s.regValue r = 0) (o : Half) : s.readReg o = 0 := by
  by_cases hreg : ∃ r : HostReg, r.offset = o
  · obtain ⟨r, rfl⟩ := hreg
    rw [State.readReg_offset, h r]
  · exact s.readReg_reserved fun r hr => hreg ⟨r, hr⟩

/-- Settles O38: the registers are those of reset, FB lists no written byte, and each named register of reset holds 0. -/
theorem powerUpResets : Obligations.PowerUpResets :=
  ⟨fun s => ⟨s.powerUpBlock, rfl, s.powerUpBlock_sameRegisters, Memory.lookup_nil⟩,
    State.readReg_eq_zero State.reset_regValue⟩

/-- Settles O37: `resetBlock` is the state the statement writes out, at a stage with no engine step. -/
theorem resetWritesRegisters : Obligations.ResetWritesRegisters := fun s =>
  ⟨s.resetBlock, rfl, rfl, s.resetBlock_fbByte, s.resetBlock_statusWord, State.engineOp_idle s.resetBlock_stage⟩

end Sys2Proof.Machine
end
